-- ==== Sys2Proof/Word.lean ====
section
/-! DEFINITION. The machine's words and bytes, and the quantities its converters produce
(spec/00_scope.md R4, R6; spec/43_conversion.md R150, R151). -/

namespace Sys2Proof

/-- A 16-bit word: a command word, a safety word, a register value, a cache slot (R4). -/
abbrev Word := BitVec 16

/-- An 8-bit byte: the CRC accumulator and each byte the CRC absorbs (R4). -/
abbrev Byte := BitVec 8

/-- The class `qc` of a quantity (R151): `FINITE = 0`, `POS_INF = 1`, `NEG_INF = 2`, `NAN = 3`;
the codes are `QClass.toBits`, Machine/Operands.lean. -/
inductive QClass where
  | finite
  | posInf
  | negInf
  | nan
deriving DecidableEq, Repr, Inhabited

/-- A quantity with its class: an exact rational, or one of the three non-finite classes (R150,
R151). There is no negative zero: "binary64's `-0.0` is the value 0". -/
inductive Quantity where
  | finite (q : Rat)
  | posInf
  | negInf
  | nan
deriving DecidableEq, Repr, Inhabited

end Sys2Proof
end

