-- ==== Sys2Proof/Config.lean ====
section
/-! DEFINITION. What a realisation fixes and the spec leaves open to the block: the numeric format
`NUM` of the converter outputs (spec/00_scope.md R5, spec/43_conversion.md R150). The open
parameters of the HOST sequences are arguments (`HostParams`, Machine/Transport.lean). -/

namespace Sys2Proof.Config

/-- `NUM`, "a rounding function from the rationals (extended by the three classes of rule R151) into
whatever number format a realisation carries" (R150, D15 `OPEN`). It has no body: no proof can see
what it is, so a claim holds whatever the format. A value of the format is identified with the
quantity it denotes. DESIGN CHOICE (assumption log 10). -/
opaque num : Quantity → Quantity

end Sys2Proof.Config
end

