-- ==== Sys2Proof/Syntax.lean ====
section
/-! DEFINITION. The operations and word formats of the block as syntax: one constructor of `Instr`
per row of spec/opcode_table.json, their operands, the encoded forms they are decoded from, and the
decoded forms of the two wire words (spec/30_encoding.md). -/

namespace Sys2Proof

/-- The access rights of a bit-field descriptor (R64): bit 0 `R`, bit 1 `W`, bit 2 `U`
(update-required), bit 3 `RES` (reserved). -/
structure Access where
  r : Bool
  w : Bool
  u : Bool
  res : Bool
deriving DecidableEq, Repr, Inhabited

/-- A bit-field descriptor (R64): "register index, bit mask, bit position, access rights". -/
structure Descriptor where
  reg : BitVec 5
  mask : Word
  pos : BitVec 4
  acc : Access
deriving DecidableEq, Repr, Inhabited

/-- The operations of R60, the reserved selector values of R66 and the word formats of R55 and R57:
one constructor per row of the opcode table. An index operand is the raw 5-bit port, so that the
values 22 to 31 of R66(b) are executed, not assumed away. -/
inductive Instr where
  /-- R61 -/
  | nop
  /-- R81 -/
  | regoff (ri : BitVec 5)
  /-- R82 -/
  | buildRd (ri : BitVec 5) (upd safe : Bool) (len : BitVec 4)
  /-- R83 -/
  | buildWr (ri : BitVec 5) (safe : Bool)
  /-- R84 -/
  | decCmd (w : Word)
  /-- R85 -/
  | decSafe (w : Word)
  /-- R103 -/
  | crcInit
  /-- R104 -/
  | crcByte (b : Byte)
  /-- R106 -/
  | crcWord (w : Word)
  /-- R107 -/
  | crcRead
  /-- R108: the safety word, the command word, the payload. -/
  | check (w cmd : Word) (pl : List Word)
  /-- R122 -/
  | cacheWr (ri : BitVec 5) (w : Word)
  /-- R125 -/
  | cacheRd (ri : BitVec 5)
  /-- R124 -/
  | fldGet (d : Descriptor) (raw : Word)
  /-- R126 -/
  | fldSet (d : Descriptor) (v : Word)
  /-- R127 -/
  | blockCrc
  /-- R123: `wr` false is the intent to read, true the intent to write. -/
  | fldChk (d : Descriptor) (wr : Bool)
  /-- R152 -/
  | cnvAngle (raw : Word)
  /-- R153 -/
  | cnvRevol (raw : Word)
  /-- R154 -/
  | cnvTemp (raw : Word)
  /-- R155 -/
  | cnvRange (v : Word)
  /-- R156: the range in degrees, the raw speed, `fir_mode`, the prediction-enable bit. -/
  | cnvSpeed (rng : Quantity) (raw v : Word) (pred : Bool)
  /-- R66(a), `op = 0x06` -/
  | reserved06
  /-- R66(a), `op = 0x07` -/
  | reserved07
  /-- R66(a), `op = 0x0D` -/
  | reserved0D
  /-- R66(a), `op = 0x0E` -/
  | reserved0E
  /-- R66(a), `op = 0x0F` -/
  | reserved0F
  /-- R66(a), `op = 0x16` -/
  | reserved16
  /-- R66(a), `op = 0x17` -/
  | reserved17
  /-- R66(a), `op = 0x1D` -/
  | reserved1D
  /-- R66(a), `op = 0x1E` -/
  | reserved1E
  /-- R66(a), `op = 0x1F` -/
  | reserved1F
  /-- A command word of the `READ` form (R50, R55). -/
  | cmdRead (upd : Bool) (addr : BitVec 6) (nd : BitVec 4)
  /-- A command word of the `WRITE` form (R50, R55). -/
  | cmdWrite (upd : Bool) (addr : BitVec 6) (nd : BitVec 4)
  /-- A safety word (R57). -/
  | safetyWord (noReset noSysErr noIfErr validAngle : Bool) (slaveId : BitVec 4) (crc : Byte)
deriving DecidableEq, Repr

/-- The input ports of the block (R63), every one a plain pattern of its width. `rng` carries a
quantity of the format `NUM`; `pl` has 15 lanes, of which the first `pn` are the payload
(DESIGN CHOICE, assumption log 9); `d` is the 29-bit descriptor (R64; packing: assumption log 8). -/
structure Ports where
  op : BitVec 5 := 0
  ri : BitVec 5 := 0
  wr : Bool := false
  upd : Bool := false
  safe : Bool := false
  len : BitVec 4 := 0
  w : Word := 0
  cmd : Word := 0
  pl : Vector Word 15 := Vector.replicate 15 0
  pn : BitVec 4 := 0
  b : Byte := 0
  d : BitVec 29 := 0
  raw : Word := 0
  v : Word := 0
  pred : Bool := false
  rng : Quantity := .finite 0
deriving DecidableEq, Repr

/-- The encoded form of an instruction, in one of the three formats of the opcode table (R62): an
invocation through the selector (`op5`), a command word (`cmd16`), a safety word (`safety16`). The
format says which way a wire word travels, which the 16 bits alone do not (assumption log 6). -/
inductive Offer where
  | op5 (p : Ports)
  | cmd16 (w : Word)
  | safety16 (w : Word)
deriving DecidableEq, Repr

/-- The form of a command word (R55, R84). -/
inductive CmdKind where
  | read
  | write
  | other
deriving DecidableEq, Repr, Inhabited

/-- A command word decoded into its fields (R50, R84). -/
structure CmdFields where
  rw : Bool
  cls : BitVec 4
  upd : Bool
  addr : BitVec 6
  nd : BitVec 4
  safe : Bool
  kind : CmdKind
  riValid : Bool
  ri : BitVec 5
deriving DecidableEq, Repr

/-- A safety word decoded into its fields (R57, R85). -/
structure SafetyFields where
  noReset : Bool
  noSysErr : Bool
  noIfErr : Bool
  validAngle : Bool
  slaveId : BitVec 4
  crc : Byte
deriving DecidableEq, Repr

end Sys2Proof
end

