-- ==== Sys2Proof/WellFormed.lean ====
section
/-! DEFINITION. Which instructions and descriptors are well formed. -/

namespace Sys2Proof

/-- A descriptor is well formed when `reg <= 21`, `mask != 0` and `mask` has no 1 bit below `pos`
(R65). The operations run on ill-formed descriptors too; this is the premise of the round trip
(R129) and of a legal `FIELD_TABLE`. -/
abbrev Descriptor.WellFormed (d : Descriptor) : Prop :=
  d.reg.toNat ≤ 21 ∧ d.mask ≠ 0 ∧ d.mask &&& ((1 <<< d.pos.toNat) - 1) = 0

/-- An instruction is well formed when it fits the ports of R63: the payload of `CHECK` has at most
15 words (`0 <= pn <= 15`, R108, R214). Every other operand fits by its type. -/
def Instr.wellFormed : Instr → Bool
  | .check _ _ pl => decide (pl.length ≤ 15)
  | .nop | .regoff _ | .buildRd _ _ _ _ | .buildWr _ _ | .decCmd _ | .decSafe _ | .crcInit
  | .crcByte _ | .crcWord _ | .crcRead | .cacheWr _ _ | .cacheRd _ | .fldGet _ _ | .fldSet _ _
  | .blockCrc | .fldChk _ _ | .cnvAngle _ | .cnvRevol _ | .cnvTemp _ | .cnvRange _
  | .cnvSpeed _ _ _ _ | .reserved06 | .reserved07 | .reserved0D | .reserved0E | .reserved0F
  | .reserved16 | .reserved17 | .reserved1D | .reserved1E | .reserved1F | .cmdRead _ _ _
  | .cmdWrite _ _ _ | .safetyWord _ _ _ _ _ _ => true

/-- The index operands an instruction carries (R66(b)): `ri`, or the `reg` of its descriptor. -/
def Instr.indexOperand : Instr → Option (BitVec 5)
  | .regoff ri | .buildRd ri _ _ _ | .buildWr ri _ | .cacheWr ri _ | .cacheRd ri => some ri
  | .fldGet d _ | .fldSet d _ | .fldChk d _ => some d.reg
  | .nop | .decCmd _ | .decSafe _ | .crcInit | .crcByte _ | .crcWord _ | .crcRead | .check _ _ _
  | .blockCrc | .cnvAngle _ | .cnvRevol _ | .cnvTemp _ | .cnvRange _ | .cnvSpeed _ _ _ _
  | .reserved06 | .reserved07 | .reserved0D | .reserved0E | .reserved0F | .reserved16
  | .reserved17 | .reserved1D | .reserved1E | .reserved1F | .cmdRead _ _ _ | .cmdWrite _ _ _
  | .safetyWord _ _ _ _ _ _ => none

/-- The ten reserved selector values (R66(a)). -/
def Instr.isReserved : Instr → Bool
  | .reserved06 | .reserved07 | .reserved0D | .reserved0E | .reserved0F | .reserved16
  | .reserved17 | .reserved1D | .reserved1E | .reserved1F => true
  | .nop | .regoff _ | .buildRd _ _ _ _ | .buildWr _ _ | .decCmd _ | .decSafe _ | .crcInit
  | .crcByte _ | .crcWord _ | .crcRead | .check _ _ _ | .cacheWr _ _ | .cacheRd _ | .fldGet _ _
  | .fldSet _ _ | .blockCrc | .fldChk _ _ | .cnvAngle _ | .cnvRevol _ | .cnvTemp _ | .cnvRange _
  | .cnvSpeed _ _ _ _ | .cmdRead _ _ _ | .cmdWrite _ _ _ | .safetyWord _ _ _ _ _ _ => false

end Sys2Proof
end

