-- ==== Sys2Proof/Machine/Operands.lean ====
section
/-! DEFINITION. Every operand form of the block: register indices and the address map, the fields of
command and safety words, descriptors and their access rights, byte order, sign extension, the
numeric operands of the converters. -/

namespace Sys2Proof

/-! ### Bits of a word (R6, R34) -/

/-- `hi8(w) = w[15:8]` (R6). -/
def hi8 (w : Word) : Byte := w.extractLsb' 8 8

/-- `lo8(w) = w[7:0]` (R6). -/
def lo8 (w : Word) : Byte := w.extractLsb' 0 8

/-- `bytes(w) = [hi8(w), lo8(w)]`, the one place where byte order appears: big-endian (R34). -/
def wordBytes (w : Word) : List Byte := [hi8 w, lo8 w]

/-- The word with the given high and low bytes. -/
def wordOfBytes (hi lo : Byte) : Word := hi ++ lo

/-- A one-bit flag as the word with `flag` where the bit is 1, else 0 (R82, R83). -/
def flagWord (b : Bool) (flag : Word) : Word := if b then flag else 0

/-! ### Register indices and the address map (R11, R59) -/

/-- A logical register index, 0 to 21: the type R66 asks for. -/
abbrev RegIndex := Fin 22

/-- The index on a 5-bit port, or none for 22 to 31 (R66(b)). -/
def RegIndex.ofPort (ri : BitVec 5) : Option RegIndex :=
  if h : ri.toNat < 22 then some ⟨ri.toNat, h⟩ else none

/-- An index as the 5-bit port carries it. -/
def RegIndex.toPort (i : RegIndex) : BitVec 5 := BitVec.ofNat 5 i.val

/-- `STAT`, the status register (R16). -/
abbrev RegIndex.stat : RegIndex := 0
/-- `AVAL`, the raw angle, the document's `ANGLE_VAL` (R16, R56). -/
abbrev RegIndex.aval : RegIndex := 2
/-- `MOD_2`, the first register of the CRC-protected block (R32). -/
abbrev RegIndex.mod2 : RegIndex := 8
/-- `TCO_Y`, the last register of the CRC-protected block (R32). -/
abbrev RegIndex.tcoY : RegIndex := 15

/-- The names of the registers by logical index (R59). -/
def regNames : Vector String 22 :=
  #v["STAT", "ACSTAT", "AVAL", "ASPD", "AREV", "FSYNC", "MOD_1", "SIL", "MOD_2", "MOD_3", "OFFX",
    "OFFY", "SYNCH", "IFAB", "MOD_4", "TCO_Y", "ADC_X", "ADC_Y", "D_MAG", "T_RAW", "IIF_CNT",
    "T25O"]

/-- `REGOFF`, the fixed table from logical index to address offset (R59). -/
def regOffTable : Vector Word 22 :=
  #v[0x000, 0x010, 0x020, 0x030, 0x040, 0x050, 0x060, 0x070, 0x080, 0x090, 0x0A0,
    0x0B0, 0x0C0, 0x0D0, 0x0E0, 0x0F0, 0x100, 0x110, 0x140, 0x150, 0x200, 0x300]

/-- `REGOFF[i]` (R59, R81). -/
def regOff (i : RegIndex) : Word := regOffTable[i]

/-- `REGIDX(offset)`, the partial inverse of `REGOFF`, defined on its 22 offsets only (R59). -/
def regIdx (off : Word) : Option RegIndex :=
  (List.finRange 22).find? fun i => regOff i == off

/-- The index lies in the CRC-protected block, indices 8 to 15 (R32, R123). -/
def inBlock (i : RegIndex) : Bool := 8 ≤ i.val && i.val ≤ 15

/-! ### Command words (R50 to R55, R84) -/

/-- `READ` (R51). -/
def readBase : Word := 0x8000
/-- `WRITE` (R51). -/
def writeBase : Word := 0x5000
/-- `UPD` (R52). -/
def updFlag : Word := 0x0400
/-- `SAFE` (R54). -/
def safeFlag : Word := 0x0001

/-- The form of a command word, by match and mask on the word (R55). -/
def commandKind (w : Word) : CmdKind :=
  if w &&& 0xF800 = readBase then .read
  else if w &&& 0xF800 = writeBase then .write
  else .other

/-- The fields of a command word (R50, R84). Every word has them. -/
def commandFields (w : Word) : CmdFields :=
  let addr : BitVec 6 := w.extractLsb' 4 6
  let ri := regIdx (addr.zeroExtend 16 <<< 4)
  { rw := w[15]
    cls := w.extractLsb' 11 4
    upd := w[10]
    addr := addr
    nd := w.extractLsb' 0 4
    safe := w[0]
    kind := commandKind w
    riValid := ri.isSome
    ri := match ri with
      | some i => i.toPort
      | none => 0 }

/-- `nd + safe`, a 5-bit sum: data words and, with the safety flag, the safety word (R58, R82). -/
def frameWords (nd : BitVec 4) (safe : Bool) : BitVec 5 :=
  nd.zeroExtend 5 + (if safe then 1 else 0)

/-- `rxn` of a decoded command word: the number of words the host must receive (R84). -/
def CmdFields.rxn (c : CmdFields) : BitVec 5 :=
  match c.kind with
  | .read => frameWords c.nd c.safe
  | .write => if c.safe then 1 else 0
  | .other => 0

/-- The command word with the given fields (R50). -/
def commandWord (rw : Bool) (cls : BitVec 4) (upd : Bool) (addr : BitVec 6) (nd : BitVec 4) :
    Word :=
  BitVec.ofBool rw ++ cls ++ BitVec.ofBool upd ++ addr ++ nd

/-! ### Safety words (R57, R85) -/

/-- The fields of a safety word (R57, R85). Every word is well formed. -/
def safetyFields (w : Word) : SafetyFields :=
  { noReset := w[15]
    noSysErr := w[14]
    noIfErr := w[13]
    validAngle := w[12]
    slaveId := w.extractLsb' 8 4
    crc := w.extractLsb' 0 8 }

/-- The safety word with the given fields (R57). -/
def safetyWordOf (noReset noSysErr noIfErr validAngle : Bool) (slaveId : BitVec 4) (crc : Byte) :
    Word :=
  BitVec.ofBool noReset ++ BitVec.ofBool noSysErr ++ BitVec.ofBool noIfErr ++
    BitVec.ofBool validAngle ++ slaveId ++ crc

/-! ### Descriptors (R64, R123) -/

/-- The access rights on the 4 bits of `acc`: bit 0 `R`, 1 `W`, 2 `U`, 3 `RES` (R64). -/
def Access.ofBits (a : BitVec 4) : Access := ⟨a[0], a[1], a[2], a[3]⟩

/-- The 4 bits of access rights (R64). -/
def Access.toBits (a : Access) : BitVec 4 :=
  BitVec.ofBool a.res ++ BitVec.ofBool a.u ++ BitVec.ofBool a.w ++ BitVec.ofBool a.r

/-- A descriptor from the 29-bit port `d`, packed `reg, mask, pos, acc` with `reg` highest. The
widths are R64's; the order is a DESIGN CHOICE (assumption log 8). -/
def Descriptor.ofBits (d : BitVec 29) : Descriptor :=
  { reg := d.extractLsb' 24 5
    mask := d.extractLsb' 8 16
    pos := d.extractLsb' 4 4
    acc := Access.ofBits (d.extractLsb' 0 4) }

/-- A descriptor packed for the 29-bit port `d` (assumption log 8). -/
def Descriptor.toBits (d : Descriptor) : BitVec 29 := d.reg ++ d.mask ++ d.pos ++ d.acc.toBits

/-- `readable(d)`: not reserved, and the `R` right (R123). -/
def Descriptor.readable (d : Descriptor) : Bool := !d.acc.res && d.acc.r

/-- `writable(d)`: not reserved, and the `W` right (R123). -/
def Descriptor.writable (d : Descriptor) : Bool := !d.acc.res && d.acc.w

/-- `needs_update(d)` (R123). -/
def Descriptor.needsUpdate (d : Descriptor) : Bool := d.acc.u

/-- The field of a raw register value: `(raw & mask) >> pos` (R124). -/
def Descriptor.extract (d : Descriptor) (raw : Word) : Word := (raw &&& d.mask) >>> d.pos.toNat

/-- A field value inserted into a register value: `(c & ~mask) | ((v << pos) & mask)` (R126). -/
def Descriptor.insert (d : Descriptor) (c v : Word) : Word :=
  (c &&& ~~~d.mask) ||| ((v <<< d.pos.toNat) &&& d.mask)

/-! ### Numbers (R7, R150 to R158) -/

/-- `sext_15(raw)`: mask to 15 bits, subtract `2^15` if bit 14 is set (R152, R156, R158). -/
def sext15 (raw : Word) : Int :=
  let u := (raw &&& 0x7FFF).toNat
  if u.testBit 14 then (u : Int) - 32768 else u

/-- `sext_9(raw)`: mask to 9 bits, subtract 512 if bit 8 is set (R153, R154, R158). -/
def sext9 (raw : Word) : Int :=
  let u := (raw &&& 0x01FF).toNat
  if u.testBit 8 then (u : Int) - 512 else u

/-- `FIR_US`, microseconds as exact decimals; 0 outside 0..3, "treated as a zero time constant"
(R156, R157). -/
def firMicroseconds (v : Word) : Rat :=
  match v.toNat with
  | 0 => 213 / 10
  | 1 => 427 / 10
  | 2 => 853 / 10
  | 3 => 1706 / 10
  | _ => 0

/-- The document's `prediction_mode`: 3 if the prediction-enable bit is set, else 2 (R156). -/
def predictionMode (pred : Bool) : Rat := if pred then 3 else 2

/-- The 2-bit code the port `qc` carries for a class (R151, R63). -/
def QClass.toBits : QClass → BitVec 2
  | .finite => 0
  | .posInf => 1
  | .negInf => 2
  | .nan => 3

/-- The class a 2-bit code on the port `qc` stands for; every code is one (R151). -/
def QClass.ofBits (c : BitVec 2) : QClass :=
  match c.toNat with
  | 0 => .finite
  | 1 => .posInf
  | 2 => .negInf
  | _ => .nan

/-- The class of a quantity (R151). -/
def Quantity.cls : Quantity → QClass
  | .finite _ => .finite
  | .posInf => .posInf
  | .negInf => .negInf
  | .nan => .nan

/-- A quantity times a rational in the arithmetic of R151: an infinity times zero is `NAN`, an
infinity times a non-zero number is an infinity of the product's sign (assumption log 11). -/
def Quantity.mulRat (a : Quantity) (x : Rat) : Quantity :=
  match a with
  | .finite q => .finite (q * x)
  | .posInf => if 0 < x then .posInf else if x < 0 then .negInf else .nan
  | .negInf => if 0 < x then .negInf else if x < 0 then .posInf else .nan
  | .nan => .nan

/-- A quantity divided by a rational in the arithmetic of R151. A zero divisor is `+0`: a non-zero
number over it is an infinity of the dividend's sign, zero over it is `NAN`, an infinity keeps its
sign (assumption log 11). -/
def Quantity.divRat (a : Quantity) (x : Rat) : Quantity :=
  match a with
  | .finite q =>
    if x = 0 then (if 0 < q then .posInf else if q < 0 then .negInf else .nan)
    else .finite (q / x)
  | .posInf => if x < 0 then .negInf else .posInf
  | .negInf => if x < 0 then .posInf else .negInf
  | .nan => .nan

end Sys2Proof
end

