-- ==== Sys2Proof/Machine/State.lean ====
section
/-! DEFINITION. The state of the block as plain data (spec/10_state.md), its result codes and output
ports (spec/60_exceptions.md R170, spec/30_encoding.md R63), and the state after reset. -/

namespace Sys2Proof.Machine

/-- The 3-bit result code `st` (R170): "All are returned synchronously as a result value". -/
inductive ResultCode where
  /-- 0: no failure. -/
  | ok
  /-- 1: bit 14 of the safety word is 0 (R171). -/
  | systemError
  /-- 2: bit 14 is 1 and bit 13 is 0 (R172). -/
  | interfaceAccessError
  /-- 3: bits 14 and 13 are 1 and bit 12 is 0 (R173). -/
  | invalidAngleError
  /-- 4: bits 14:12 are 1 and the CRC differs from bits 7:0 (R174). -/
  | crcError
  /-- 5: the descriptor lacks the needed right (R180). -/
  | accessDenied
  /-- 6: a Transport Port call failed; of host sequences only, never raised by the block (R175). -/
  | transportError
  /-- 7: a reserved selector code, or an index operand above 21 (R180). -/
  | illegalOp
deriving DecidableEq, Repr, Inhabited

/-- The number of a result code (R170, D8). -/
def ResultCode.toNat : ResultCode → Nat
  | .ok => 0
  | .systemError => 1
  | .interfaceAccessError => 2
  | .invalidAngleError => 3
  | .crcError => 4
  | .accessDenied => 5
  | .transportError => 6
  | .illegalOp => 7

/-- The output `fields` (R63): those of `DEC_CMD` or of `DEC_SAFE`; `none` is "all zero". -/
inductive Fields where
  | none
  | cmd (c : CmdFields)
  | safety (f : SafetyFields)
deriving DecidableEq, Repr

/-- The output ports (R63). "unlisted outputs are zero": the default value of every port is its zero,
so `{ st := c }` is the code `c` with all other outputs zero. `si` is the mathematical integer of
R150. -/
structure Outputs where
  st : ResultCode := .ok
  out : Word := 0
  rxn : BitVec 5 := 0
  fields : Fields := .none
  resetReq : Bool := false
  needTrigger : Bool := false
  inCrcBlock : Bool := false
  qc : QClass := .finite
  si : Int := 0
  q : Quantity := .finite 0
deriving DecidableEq, Repr

/-- The block's state, "exactly this triple" (R10): "There is no other state". Every operation is a function
of it and of its operands (`State.perform`, Machine/Ops.lean). -/
structure Block where
  /-- `REGCACHE[0..21]` (R11). -/
  regcache : Vector Word 22
  /-- `CRC_ACC`, the accumulator before the final complement (R13). -/
  crcAcc : Byte
  /-- `SAFETY_LAST`, no value before the first `CHECK` (R15). -/
  safetyLast : Option Word
deriving DecidableEq, Repr

/-- The block as one machine with the host that drives it, which the interface of this model asks for: `step`
takes no operation and answers a state only. Beside the block (R10) it holds what stands outside of it
on its ports, the MODEL's own fields: `outs`, the output ports as the most recent operation drove them,
which no operation reads (R17; assumption log 3), and `offers`, the invocations the HOST is still to
make, the next one first (R14; assumption log 1). -/
structure State extends Block where
  /-- The output ports after the most recent operation. -/
  outs : Outputs
  /-- The host's coming invocations. -/
  offers : List Offer
deriving DecidableEq, Repr

/-- The block has no fault: "the core never throws/panics on expected failure paths", every failure is
a result code (R7, R178). No constructor: no step can fault (safe). -/
inductive Fault where
deriving DecidableEq, Repr

/-- Why a step has no meaning. -/
inductive Refusal where
  /-- The host's constructor for an arm without a meaning. No arm raises it. Safe. -/
  | notModelled (mnemonic : String)
  /-- Raised by `step` when the host offers, as a command word to run, a word of neither form of R55,
  which is no row of the opcode table: the document "neither calls it illegal nor gives it a
  meaning". Safe: the machine stops. (`DEC_CMD` decodes such a word; assumption log 7.) -/
  | unknownCommandForm (w : Word)
deriving DecidableEq, Repr

/-- The block right after reset, the construction of the Facade (R21, R200, R201): every cache slot
`0x0000`, `CRC_ACC = 0xFF`, `SAFETY_LAST` without a value. -/
def Block.reset : Block :=
  { regcache := Vector.replicate 22 0
    crcAcc := 0xFF
    safetyLast := none }

/-- The state right after reset: the block as R21 has it; the model's own fields with outputs all zero and
nothing offered (DESIGN CHOICE, assumption log 4). -/
def State.reset : State :=
  { toBlock := Block.reset
    outs := {}
    offers := [] }

end Sys2Proof.Machine
end

