-- ==== Sys2Proof/Machine/Flags.lean ====
section
/-! DEFINITION. The block has no flags register; "What a processor would put in flags are outputs of
the operation that computed them" (spec/10_state.md R17). Here are those side outputs: `reset_req`,
`need_trigger`, `in_crc_block` and the code of the safety check. -/

namespace Sys2Proof.Machine

/-- The code the three sticky status bits give, in the document's order: bit 14, then 13, then 12;
none when all three are 1 (R108 steps 1 to 3, R185(a)). -/
def statusBitsError (w : Word) : Option ResultCode :=
  if w[14] = false then some .systemError
  else if w[13] = false then some .interfaceAccessError
  else if w[12] = false then some .invalidAngleError
  else none

/-- `reset_req`: 1 iff the result is `SystemError` or `CrcError` (R109). -/
def resetRequest (st : ResultCode) : Bool := st = .systemError || st = .crcError

/-- `need_trigger`: only for the intent to read, on a descriptor that requires an update (R123). -/
def needTrigger (d : Descriptor) (wr : Bool) : Bool := !wr && d.needsUpdate

/-- The descriptor has the right the intent needs (R123). -/
def allowed (d : Descriptor) (wr : Bool) : Bool := if wr then d.writable else d.readable

end Sys2Proof.Machine
end

