-- ==== Sys2Proof/Machine/Ops.lean ====
section
/-! DEFINITION. The shared operations over the state: cache slots, the two small registers, driving
the output ports, ending an operation with a result code (the block's exception entry,
spec/60_exceptions.md R178), the index test, and the CRC-8 (spec/41_crc8_safety_validator.md). -/

namespace Sys2Proof.Machine

/-! ### The block's state (R7, R31) -/

/-- `REGCACHE[i]`, a whole slot; no side effect (R7, R31). -/
def Block.slot (b : Block) (i : RegIndex) : Word := b.regcache[i]

/-- `REGCACHE[i] <- v` (R7, R31). -/
def Block.setSlot (b : Block) (i : RegIndex) (v : Word) : Block :=
  { b with regcache := b.regcache.set i v }

/-- `CRC_ACC <- a` (R7, R13). -/
def Block.setCrcAcc (b : Block) (a : Byte) : Block := { b with crcAcc := a }

/-- `SAFETY_LAST <- w` (R7, R15). -/
def Block.setSafetyLast (b : Block) (w : Word) : Block := { b with safetyLast := some w }

/-! ### What an operation answers (R8) -/

/-- What one operation answers: its outputs and the block it leaves (R8). -/
abbrev Result := Outputs × Block

/-- Drive the output ports: those the operation lists, all others zero (R63). -/
def Block.drive (b : Block) (o : Outputs) : Result := (o, b)

/-- End the operation with a code and all other outputs zero (R170, R178). This is all that the
"exception entry" of the block does: "Nothing is saved, no mode changes, no control goes anywhere".
There is no return from it (R179). -/
def Block.endWith (b : Block) (c : ResultCode) : Result := b.drive { st := c }

/-- One operation of the block as one atomic step (R8): it reads the block alone, leaves its outputs on the
ports and cannot touch what the host is still to invoke. -/
def State.perform (s : State) (op : Block → Result) : Host.Outcome State Fault Refusal :=
  .next { toBlock := (op s.toBlock).2, outs := (op s.toBlock).1, offers := s.offers }

/-- The index test that comes first in every operation with an index operand: above 21, `ILLEGAL_OP`
and no state change (R66(b), R120, R180). -/
def withIndex (ri : BitVec 5) (b : Block) (k : RegIndex → Result) : Result :=
  match RegIndex.ofPort ri with
  | some i => k i
  | none => b.endWith .illegalOp

/-! ### CRC-8 (R101, R102, R105) -/

/-- One of the eight rounds: shift left 1; if the bit shifted out of bit 7 was 1, XOR with the
polynomial `0x1D` (R101). -/
def crcRound (a : Byte) : Byte := if a[7] then (a <<< 1) ^^^ 0x1D else a <<< 1

/-- `n` rounds. -/
def crcRounds : Nat → Byte → Byte
  | 0, a => a
  | n + 1, a => crcRounds n (crcRound a)

/-- `crc_step(acc, b)` (R101). -/
def crcStep (acc b : Byte) : Byte := crcRounds 8 (acc ^^^ b)

/-- The accumulator after a sequence of bytes, in order (R102). -/
def crcAbsorb (acc : Byte) (bs : List Byte) : Byte := bs.foldl crcStep acc

/-- The seed `0xFF` (R102). -/
def crcSeed : Byte := 0xFF

/-- `crc8(bs)`: the complement of the accumulator from the seed (R102). -/
def crc8 (bs : List Byte) : Byte := ~~~ (crcAbsorb crcSeed bs)

/-- `txbytes(cmd, pl)`: the command word and then every payload word, high byte first (R105). -/
def txBytes (cmd : Word) (pl : List Word) : List Byte :=
  wordBytes cmd ++ pl.flatMap wordBytes

/-- The 15 bytes under the CRC of the parameter block: slots 8 to 14 whole, high byte first, and the
high byte of slot 15 (R127, R128). -/
def Block.blockBytes (b : Block) : List Byte :=
  ([8, 9, 10, 11, 12, 13, 14] : List RegIndex).flatMap (fun i => wordBytes (b.slot i)) ++
    [hi8 (b.slot 15)]

end Sys2Proof.Machine
end

