-- ==== Sys2Proof/Machine/Codec.lean ====
section
/-! DEFINITION. The Command Codec (spec/40_command_codec.md). None of its operations reads or writes
the block's state (R80). -/

namespace Sys2Proof.Machine

/-- `REGOFF` (R81): logical register index to address offset. -/
def execRegoff (ri : BitVec 5) (s : State) : Host.Outcome State Fault Refusal :=
  s.perform fun b => withIndex ri b fun i => b.drive { out := regOff i }

/-- The word `BUILD_RD` builds: base, offset, update flag, safety flag and length, joined by OR
(R82, R53, R54). -/
def readCommand (i : RegIndex) (upd safe : Bool) (len : BitVec 4) : Word :=
  readBase ||| regOff i ||| flagWord upd updFlag ||| flagWord safe safeFlag ||| len.zeroExtend 16

/-- `BUILD_RD` (R82). `rxn` is taken from the word actually built (D23). -/
def execBuildRd (ri : BitVec 5) (upd safe : Bool) (len : BitVec 4) (s : State) :
    Host.Outcome State Fault Refusal :=
  s.perform fun b => withIndex ri b fun i =>
    let word := readCommand i upd safe len
    b.drive { out := word, rxn := frameWords (word.extractLsb' 0 4) safe }

/-- The word `BUILD_WR` builds: base, offset and safety flag (R83). -/
def writeCommand (i : RegIndex) (safe : Bool) : Word :=
  writeBase ||| regOff i ||| flagWord safe safeFlag

/-- `BUILD_WR` (R83). -/
def execBuildWr (ri : BitVec 5) (safe : Bool) (s : State) : Host.Outcome State Fault Refusal :=
  s.perform fun b => withIndex ri b fun i => b.drive { out := writeCommand i safe }

/-- `DEC_CMD` (R84): total on all 65536 words. -/
def execDecCmd (w : Word) (s : State) : Host.Outcome State Fault Refusal :=
  let c := commandFields w
  s.perform fun b => b.drive { fields := .cmd c, rxn := c.rxn }

/-- `DEC_SAFE` (R85): decodes, does not judge; `SAFETY_LAST` is not written. -/
def execDecSafe (w : Word) (s : State) : Host.Outcome State Fault Refusal :=
  s.perform fun b => b.drive { fields := .safety (safetyFields w) }

end Sys2Proof.Machine
end

