-- ==== Sys2Proof/Machine/Conversion.lean ====
section
/-! DEFINITION. The Conversion Engine (spec/43_conversion.md). Each operation computes the exact
reference value (R150); the port `q` carries `NUM` of it (`Config.num`), `qc` its class (R151). All
return `OK` for every input and touch no state. -/

namespace Sys2Proof.Machine

/-- The reference angle in degrees: `si * 360 / 32768` (R152). -/
def angleDegrees (raw : Word) : Quantity := .finite ((sext15 raw : Rat) * 360 / 32768)

/-- `CNV_ANGLE` (R152). -/
def execCnvAngle (raw : Word) (s : State) : Host.Outcome State Fault Refusal :=
  let r := angleDegrees raw
  s.perform fun b => b.drive { si := sext15 raw, qc := r.cls, q := Config.num r }

/-- `CNV_REVOL` (R153): there is no scaling stage and no `q`. -/
def execCnvRevol (raw : Word) (s : State) : Host.Outcome State Fault Refusal :=
  s.perform fun b => b.drive { si := sext9 raw, out := BitVec.ofInt 16 (sext9 raw) }

/-- The reference temperature in degrees Celsius: `(si + 152) / 2.776`, with 2.776 = 347/125 (R150,
R154). -/
def temperatureCelsius (raw : Word) : Quantity :=
  .finite (((sext9 raw : Rat) + 152) / (347 / 125))

/-- `CNV_TEMP` (R154). -/
def execCnvTemp (raw : Word) (s : State) : Host.Outcome State Fault Refusal :=
  let r := temperatureCelsius raw
  s.perform fun b => b.drive { si := sext9 raw, qc := r.cls, q := Config.num r }

/-- The reference angle range in degrees: `360 * 128 / v`, `POS_INF` for `v = 0` (R155). -/
def rangeDegrees (v : Word) : Quantity :=
  if v = 0 then .posInf else .finite (360 * 128 / (v.toNat : Rat))

/-- `CNV_RANGE` (R155). Its port `si` is zero: R155 computes and returns none, and "unlisted outputs are
zero" (R63), though R63's table names `si` for every `CNV_*` (DEDUCED, assumption log 28). -/
def execCnvRange (v : Word) (s : State) : Host.Outcome State Fault Refusal :=
  let r := rangeDegrees v
  s.perform fun b => b.drive { qc := r.cls, q := Config.num r }

/-- The reference speed in degrees per second: `(rng / 32768 * si) / (p * T / 1000000)` in the
arithmetic of R151 (R156). The divisor is zero exactly when `v > 3`. -/
def speedDegreesPerSecond (rng : Quantity) (raw v : Word) (pred : Bool) : Quantity :=
  let num := (rng.divRat 32768).mulRat (sext15 raw)
  let den := predictionMode pred * firMicroseconds v / 1000000
  num.divRat den

/-- `CNV_SPEED` (R156). -/
def execCnvSpeed (rng : Quantity) (raw v : Word) (pred : Bool) (s : State) :
    Host.Outcome State Fault Refusal :=
  let r := speedDegreesPerSecond rng raw v pred
  s.perform fun b => b.drive { si := sext15 raw, qc := r.cls, q := Config.num r }

end Sys2Proof.Machine
end

