-- ==== Sys2Proof/Machine/RegisterModel.lean ====
section
/-! DEFINITION. The Register Model's operations (spec/42_register_bitfield.md section 2). The index test
comes first in each (R120), the access test second (R180). -/

namespace Sys2Proof.Machine

/-- `CACHE_WR` (R122): no access-rights check. -/
def execCacheWr (ri : BitVec 5) (w : Word) (s : State) : Host.Outcome State Fault Refusal :=
  s.perform fun b => withIndex ri b fun i => (b.setSlot i w).endWith .ok

/-- `CACHE_RD` (R125). -/
def execCacheRd (ri : BitVec 5) (s : State) : Host.Outcome State Fault Refusal :=
  s.perform fun b => withIndex ri b fun i => b.drive { out := b.slot i }

/-- `FLD_CHK` (R123): evaluates the rights, touches no state. -/
def execFldChk (d : Descriptor) (wr : Bool) (s : State) : Host.Outcome State Fault Refusal :=
  s.perform fun b => withIndex d.reg b fun i =>
    if allowed d wr then
      b.drive { needTrigger := needTrigger d wr, inCrcBlock := inBlock i }
    else b.endWith .accessDenied

/-- `FLD_GET` (R124): caches the raw word and extracts the field from it. -/
def execFldGet (d : Descriptor) (raw : Word) (s : State) : Host.Outcome State Fault Refusal :=
  s.perform fun b => withIndex d.reg b fun i =>
    if d.readable then (b.setSlot i raw).drive { out := d.extract raw }
    else b.endWith .accessDenied

/-- `FLD_SET` (R126): inserts the value into the cached word, stores it and returns it. -/
def execFldSet (d : Descriptor) (v : Word) (s : State) : Host.Outcome State Fault Refusal :=
  s.perform fun b => withIndex d.reg b fun i =>
    if d.writable then
      let new := d.insert (b.slot i) v
      (b.setSlot i new).drive { out := new, inCrcBlock := inBlock i }
    else b.endWith .accessDenied

/-- `BLOCK_CRC` (R127): the CRC of the parameter block, stored in the low byte of slot 15. -/
def execBlockCrc (s : State) : Host.Outcome State Fault Refusal :=
  s.perform fun b =>
    let acc := crcAbsorb crcSeed b.blockBytes
    let new := wordOfBytes (hi8 (b.slot 15)) (~~~ acc)
    ((b.setCrcAcc acc).setSlot 15 new).drive { out := new }

end Sys2Proof.Machine
end

