-- ==== Sys2Proof/Machine/Selector.lean ====
section
/-! DEFINITION. The operation selector's own codes: `NOP` (spec/30_encoding.md R61) and the ten
reserved codes (R66(a)). -/

namespace Sys2Proof.Machine

/-- `NOP`: no state change, `st = OK`, all other outputs zero (R61). -/
def execNop (s : State) : Host.Outcome State Fault Refusal := s.perform (·.endWith .ok)

/-- A reserved selector code: no state change, `st = ILLEGAL_OP`, all other outputs zero (R66(a)). -/
def reservedCode (s : State) : Host.Outcome State Fault Refusal := s.perform (·.endWith .illegalOp)

/-- `op = 0x06` (R66(a)). -/
def execReserved06 (s : State) : Host.Outcome State Fault Refusal := reservedCode s
/-- `op = 0x07` (R66(a)). -/
def execReserved07 (s : State) : Host.Outcome State Fault Refusal := reservedCode s
/-- `op = 0x0D` (R66(a)). -/
def execReserved0D (s : State) : Host.Outcome State Fault Refusal := reservedCode s
/-- `op = 0x0E` (R66(a)). -/
def execReserved0E (s : State) : Host.Outcome State Fault Refusal := reservedCode s
/-- `op = 0x0F` (R66(a)). -/
def execReserved0F (s : State) : Host.Outcome State Fault Refusal := reservedCode s
/-- `op = 0x16` (R66(a)). -/
def execReserved16 (s : State) : Host.Outcome State Fault Refusal := reservedCode s
/-- `op = 0x17` (R66(a)). -/
def execReserved17 (s : State) : Host.Outcome State Fault Refusal := reservedCode s
/-- `op = 0x1D` (R66(a)). -/
def execReserved1D (s : State) : Host.Outcome State Fault Refusal := reservedCode s
/-- `op = 0x1E` (R66(a)). -/
def execReserved1E (s : State) : Host.Outcome State Fault Refusal := reservedCode s
/-- `op = 0x1F` (R66(a)). -/
def execReserved1F (s : State) : Host.Outcome State Fault Refusal := reservedCode s

end Sys2Proof.Machine
end

