-- ==== Sys2Proof/Machine/Validator.lean ====
section
/-! DEFINITION. The Safety Validator (spec/41_crc8_safety_validator.md). -/

namespace Sys2Proof.Machine

/-- `CRC_INIT` (R103): load the seed. -/
def execCrcInit (s : State) : Host.Outcome State Fault Refusal :=
  s.perform fun b => (b.setCrcAcc crcSeed).endWith .ok

/-- `CRC_BYTE` (R104): absorb one byte. -/
def execCrcByte (x : Byte) (s : State) : Host.Outcome State Fault Refusal :=
  s.perform fun b => (b.setCrcAcc (crcStep b.crcAcc x)).endWith .ok

/-- `CRC_WORD` (R106): absorb one word, high byte first. -/
def execCrcWord (w : Word) (s : State) : Host.Outcome State Fault Refusal :=
  s.perform fun b => (b.setCrcAcc (crcStep (crcStep b.crcAcc (hi8 w)) (lo8 w))).endWith .ok

/-- `CRC_READ` (R107): the complement of the accumulator, zero-extended; the accumulator keeps its
value. -/
def execCrcRead (s : State) : Host.Outcome State Fault Refusal :=
  s.perform fun b => b.drive { out := (~~~ b.crcAcc).zeroExtend 16 }

/-- `CHECK` (R108, R109): `SAFETY_LAST` is written whatever the result; the status bits are tested in
order; `CRC_ACC` is written only when step 4 is reached. -/
def execCheck (w cmd : Word) (pl : List Word) (s : State) : Host.Outcome State Fault Refusal :=
  s.perform fun b =>
    let b := b.setSafetyLast w
    match statusBitsError w with
    | some c => b.drive { st := c, resetReq := resetRequest c }
    | none =>
      let acc := crcAbsorb crcSeed (txBytes cmd pl)
      let st : ResultCode := if ~~~ acc = lo8 w then .ok else .crcError
      (b.setCrcAcc acc).drive { st := st, resetReq := resetRequest st }

end Sys2Proof.Machine
end

