-- ==== Sys2Proof/Machine/WireWords.lean ====
section
/-! DEFINITION. The word-format rows of the opcode table: `CMD.READ`, `CMD.WRITE`
(spec/30_encoding.md R50, R55) and `SAFETY_WORD` (R57). They are data the block decodes, not
operations (R62). Offered to the model as instructions, each has the one meaning the block gives
such a word: its decoding (R84, R85). DESIGN CHOICE (assumption log 5). -/

namespace Sys2Proof.Machine

/-- `CMD.READ`: the decoding of the word, as R84 gives it for the `READ` form. -/
def execCmdRead (upd : Bool) (addr : BitVec 6) (nd : BitVec 4) (s : State) :
    Host.Outcome State Fault Refusal :=
  let c := commandFields (commandWord true 0b0000 upd addr nd)
  s.perform fun b => b.drive { fields := .cmd c, rxn := c.rxn }

/-- `CMD.WRITE`: the decoding of the word, as R84 gives it for the `WRITE` form. -/
def execCmdWrite (upd : Bool) (addr : BitVec 6) (nd : BitVec 4) (s : State) :
    Host.Outcome State Fault Refusal :=
  let c := commandFields (commandWord false 0b1010 upd addr nd)
  s.perform fun b => b.drive { fields := .cmd c, rxn := c.rxn }

/-- `SAFETY_WORD`: the decoding of the word, as R85 gives it. -/
def execSafetyWord (noReset noSysErr noIfErr validAngle : Bool) (slaveId : BitVec 4) (crc : Byte)
    (s : State) : Host.Outcome State Fault Refusal :=
  s.perform fun b => b.drive
    { fields := .safety
        (safetyFields (safetyWordOf noReset noSysErr noIfErr validAngle slaveId crc)) }

end Sys2Proof.Machine
end

