-- ==== Sys2Proof/Machine/Dispatch.lean ====
section
/-! DEFINITION. One arm per constructor of `Instr`: each a direct call of the instruction's meaning. -/

namespace Sys2Proof.Machine

def exec (i : Instr) (s : State) : Host.Outcome State Fault Refusal :=
  match i with
  | .nop => Sys2Proof.Machine.execNop s
  | .regoff ri => Sys2Proof.Machine.execRegoff ri s
  | .buildRd ri upd safe len => Sys2Proof.Machine.execBuildRd ri upd safe len s
  | .buildWr ri safe => Sys2Proof.Machine.execBuildWr ri safe s
  | .decCmd w => Sys2Proof.Machine.execDecCmd w s
  | .decSafe w => Sys2Proof.Machine.execDecSafe w s
  | .crcInit => Sys2Proof.Machine.execCrcInit s
  | .crcByte b => Sys2Proof.Machine.execCrcByte b s
  | .crcWord w => Sys2Proof.Machine.execCrcWord w s
  | .crcRead => Sys2Proof.Machine.execCrcRead s
  | .check w cmd pl => Sys2Proof.Machine.execCheck w cmd pl s
  | .cacheWr ri w => Sys2Proof.Machine.execCacheWr ri w s
  | .cacheRd ri => Sys2Proof.Machine.execCacheRd ri s
  | .fldGet d raw => Sys2Proof.Machine.execFldGet d raw s
  | .fldSet d v => Sys2Proof.Machine.execFldSet d v s
  | .blockCrc => Sys2Proof.Machine.execBlockCrc s
  | .fldChk d wr => Sys2Proof.Machine.execFldChk d wr s
  | .cnvAngle raw => Sys2Proof.Machine.execCnvAngle raw s
  | .cnvRevol raw => Sys2Proof.Machine.execCnvRevol raw s
  | .cnvTemp raw => Sys2Proof.Machine.execCnvTemp raw s
  | .cnvRange v => Sys2Proof.Machine.execCnvRange v s
  | .cnvSpeed rng raw v pred => Sys2Proof.Machine.execCnvSpeed rng raw v pred s
  | .reserved06 => Sys2Proof.Machine.execReserved06 s
  | .reserved07 => Sys2Proof.Machine.execReserved07 s
  | .reserved0D => Sys2Proof.Machine.execReserved0D s
  | .reserved0E => Sys2Proof.Machine.execReserved0E s
  | .reserved0F => Sys2Proof.Machine.execReserved0F s
  | .reserved16 => Sys2Proof.Machine.execReserved16 s
  | .reserved17 => Sys2Proof.Machine.execReserved17 s
  | .reserved1D => Sys2Proof.Machine.execReserved1D s
  | .reserved1E => Sys2Proof.Machine.execReserved1E s
  | .reserved1F => Sys2Proof.Machine.execReserved1F s
  | .cmdRead upd addr nd => Sys2Proof.Machine.execCmdRead upd addr nd s
  | .cmdWrite upd addr nd => Sys2Proof.Machine.execCmdWrite upd addr nd s
  | .safetyWord noReset noSysErr noIfErr validAngle slaveId crc => Sys2Proof.Machine.execSafetyWord noReset noSysErr noIfErr validAngle slaveId crc s

end Sys2Proof.Machine
end

