-- ==== Sys2Proof/Decode.lean ====
section
/-! DEFINITION. Decoding an offered invocation or wire word into an instruction, total on every
pattern of the ports; and the encoder, written from the same tables (spec/30_encoding.md R50 to
R67, spec/opcode_table.json). -/

namespace Sys2Proof

/-- Why a pattern is no instruction. -/
inductive DecodeError where
  /-- A command word of neither recognised form (R55): the document gives it no meaning, and no row
  of the opcode table matches it (assumption log 7). -/
  | unknownCommandForm (w : Word)
deriving DecidableEq, Repr

/-- The payload on the ports: the first `pn` of the 15 lanes of `pl` (R63; assumption log 9). -/
def Ports.payload (p : Ports) : List Word := p.pl.toList.take p.pn.toNat

/-- The operation selected by `op`, with the ports R63 lists for it. All 32 codes are decoded: the 22
of R60 and the ten reserved ones of R66(a). (The last arm is `0x1F`, the only 5-bit value left.) -/
def decodePorts (p : Ports) : Instr :=
  match p.op.toNat with
  | 0x00 => .nop
  | 0x01 => .regoff p.ri
  | 0x02 => .buildRd p.ri p.upd p.safe p.len
  | 0x03 => .buildWr p.ri p.safe
  | 0x04 => .decCmd p.w
  | 0x05 => .decSafe p.w
  | 0x06 => .reserved06
  | 0x07 => .reserved07
  | 0x08 => .crcInit
  | 0x09 => .crcByte p.b
  | 0x0A => .crcWord p.w
  | 0x0B => .crcRead
  | 0x0C => .check p.w p.cmd p.payload
  | 0x0D => .reserved0D
  | 0x0E => .reserved0E
  | 0x0F => .reserved0F
  | 0x10 => .cacheWr p.ri p.w
  | 0x11 => .cacheRd p.ri
  | 0x12 => .fldGet (Descriptor.ofBits p.d) p.raw
  | 0x13 => .fldSet (Descriptor.ofBits p.d) p.v
  | 0x14 => .blockCrc
  | 0x15 => .fldChk (Descriptor.ofBits p.d) p.wr
  | 0x16 => .reserved16
  | 0x17 => .reserved17
  | 0x18 => .cnvAngle p.raw
  | 0x19 => .cnvRevol p.raw
  | 0x1A => .cnvTemp p.raw
  | 0x1B => .cnvRange p.v
  | 0x1C => .cnvSpeed p.rng p.raw p.v p.pred
  | 0x1D => .reserved1D
  | 0x1E => .reserved1E
  | _ => .reserved1F

/-- A command word by its form (R55). -/
def decodeCommandWord (w : Word) : Except DecodeError Instr :=
  match commandKind w with
  | .read => .ok (.cmdRead w[10] (w.extractLsb' 4 6) (w.extractLsb' 0 4))
  | .write => .ok (.cmdWrite w[10] (w.extractLsb' 4 6) (w.extractLsb' 0 4))
  | .other => .error (.unknownCommandForm w)

/-- A safety word; every word is one (R57). -/
def decodeSafetyWord (w : Word) : Instr :=
  .safetyWord w[15] w[14] w[13] w[12] (w.extractLsb' 8 4) (w.extractLsb' 0 8)

/-- The instruction an offer stands for. -/
def decode : Offer → Except DecodeError Instr
  | .op5 p => .ok (decodePorts p)
  | .cmd16 w => decodeCommandWord w
  | .safety16 w => .ok (decodeSafetyWord w)

/-! ### The encoder -/

/-- The 15 lanes of the port `pl` for a payload; unused lanes are 0. -/
def payloadLanes (pl : List Word) : Vector Word 15 := Vector.ofFn fun k => pl.getD k.val 0

/-- The offer that stands for an instruction: its selector code (R60, R66) and the ports R63 lists for
it, the others at zero; or the wire word. -/
def encode : Instr → Offer
  | .nop => .op5 { op := 0x00 }
  | .regoff ri => .op5 { op := 0x01, ri := ri }
  | .buildRd ri upd safe len => .op5 { op := 0x02, ri := ri, upd := upd, safe := safe, len := len }
  | .buildWr ri safe => .op5 { op := 0x03, ri := ri, safe := safe }
  | .decCmd w => .op5 { op := 0x04, w := w }
  | .decSafe w => .op5 { op := 0x05, w := w }
  | .reserved06 => .op5 { op := 0x06 }
  | .reserved07 => .op5 { op := 0x07 }
  | .crcInit => .op5 { op := 0x08 }
  | .crcByte b => .op5 { op := 0x09, b := b }
  | .crcWord w => .op5 { op := 0x0A, w := w }
  | .crcRead => .op5 { op := 0x0B }
  | .check w cmd pl =>
    .op5 { op := 0x0C, w := w, cmd := cmd, pl := payloadLanes pl, pn := BitVec.ofNat 4 pl.length }
  | .reserved0D => .op5 { op := 0x0D }
  | .reserved0E => .op5 { op := 0x0E }
  | .reserved0F => .op5 { op := 0x0F }
  | .cacheWr ri w => .op5 { op := 0x10, ri := ri, w := w }
  | .cacheRd ri => .op5 { op := 0x11, ri := ri }
  | .fldGet d raw => .op5 { op := 0x12, d := d.toBits, raw := raw }
  | .fldSet d v => .op5 { op := 0x13, d := d.toBits, v := v }
  | .blockCrc => .op5 { op := 0x14 }
  | .fldChk d wr => .op5 { op := 0x15, d := d.toBits, wr := wr }
  | .reserved16 => .op5 { op := 0x16 }
  | .reserved17 => .op5 { op := 0x17 }
  | .cnvAngle raw => .op5 { op := 0x18, raw := raw }
  | .cnvRevol raw => .op5 { op := 0x19, raw := raw }
  | .cnvTemp raw => .op5 { op := 0x1A, raw := raw }
  | .cnvRange v => .op5 { op := 0x1B, v := v }
  | .cnvSpeed rng raw v pred => .op5 { op := 0x1C, rng := rng, raw := raw, v := v, pred := pred }
  | .reserved1D => .op5 { op := 0x1D }
  | .reserved1E => .op5 { op := 0x1E }
  | .reserved1F => .op5 { op := 0x1F }
  | .cmdRead upd addr nd => .cmd16 (commandWord true 0b0000 upd addr nd)
  | .cmdWrite upd addr nd => .cmd16 (commandWord false 0b1010 upd addr nd)
  | .safetyWord noReset noSysErr noIfErr validAngle slaveId crc =>
    .safety16 (safetyWordOf noReset noSysErr noIfErr validAngle slaveId crc)

/-! ### The words of the opcode table -/

/-- The offer that the opcode table's number `w` of `nbits` bits stands for. Up to 8 bits: the 5-bit
selector, every operand port at zero (the port `op` has 5 bits, R67: higher bits do not reach it).
More: a wire word, a command word where one of the two command forms matches it, else a safety word
(the table's SAFETY_WORD matches every word; DESIGN CHOICE, assumption logs 6 and 8). -/
def offerOfTableWord (nbits w : Nat) : Offer :=
  if nbits ≤ 8 then .op5 { op := BitVec.ofNat 5 w }
  else
    let word : Word := BitVec.ofNat 16 w
    match commandKind word with
    | .read | .write => .cmd16 word
    | .other => .safety16 word

/-- The instruction the decoder reads from the opcode table's number `w` of `nbits` bits. -/
def decodeTableWord (nbits w : Nat) : Option Instr :=
  match decode (offerOfTableWord nbits w) with
  | .ok i => some i
  | .error _ => none

end Sys2Proof
end

