-- ==== Sys2Proof/Machine/Fetch.lean ====
section
/-! DEFINITION. Where the next instruction comes from: the host's next invocation (spec/10_state.md
R14: "The host selects each operation"; assumption logs 1 and 2). -/

namespace Sys2Proof.Machine

/-- The selector at rest: `op = 0x00`, "the selector's idle value" (R61). -/
def idleOffer : Offer := .op5 {}

/-- The invocation the host makes now; with none offered the selector idles (assumption log 2). -/
def State.nextOffer (s : State) : Offer := s.offers.headD idleOffer

/-- The state once the host's invocation has been taken. -/
def State.takeOffer (s : State) : State := { s with offers := s.offers.tail }

/-- The state in which the host's next invocation is the given one. -/
def State.withOffer (s : State) (o : Offer) : State := { s with offers := o :: s.offers }

/-- A pattern that is no instruction, as a refusal (assumption log 7). -/
def refusalOf : DecodeError → Refusal
  | .unknownCommandForm w => .unknownCommandForm w

end Sys2Proof.Machine
end

