-- ==== Sys2Proof/Machine/Step.lean ====
section
/-! DEFINITION. One step: the host's next invocation is decoded and run as one atomic operation
(spec/00_scope.md R8, spec/20_memory.md R38). -/

namespace Sys2Proof.Machine

/-- One operation: take the host's invocation, decode it, run it (R8, R38). -/
def step (s : State) : Host.Outcome State Fault Refusal :=
  match decode s.nextOffer with
  | .ok i => exec i s.takeOffer
  | .error e => .refused (refusalOf e)

/-- `s` with the opcode table's number `w` of `nbits` bits as the host's next invocation, before any
it has already offered: the very next `step` runs it (assumption log 1). -/
def State.withFetchWord (s : State) (nbits w : Nat) : State := s.withOffer (offerOfTableWord nbits w)

end Sys2Proof.Machine
end

