-- ==== Sys2Proof/Machine/Binary64.lean ====
section
/-! DEFINITION. The binary64 reading of the scaling stage (spec/43_conversion.md R160, D37), for a
realisation that takes `NUM` to be the document's `f64`: every literal and every operation rounded
to nearest, ties to even, in the order the formula is written. The machine itself uses the open
`Config.num`; this file is the reading the spec spells out, beside it. -/

namespace Sys2Proof.Machine

/-- `num / den` rounded to the nearest integer, ties to even. -/
def roundHalfEven (num den : Nat) : Nat :=
  let q := num / den
  let r := num % den
  if 2 * r < den then q
  else if den < 2 * r then q + 1
  else if q % 2 = 0 then q else q + 1

/-- The exponent `e` with `2^e ≤ n / d < 2^(e+1)`, for positive `n` and `d`. -/
def binaryExponent (n d : Nat) : Int :=
  let e : Int := (n.log2 : Int) - d.log2
  if (if 0 ≤ e then n < d * 2 ^ e.toNat else n * 2 ^ (-e).toNat < d) then e - 1 else e

/-- A rational rounded to binary64: 53 significant bits, unit not below `2^-1074`. No overflow: "No
overflow is possible" for the formulas of this spec (R160). -/
def roundBinary64 (x : Rat) : Rat :=
  let n := x.num.natAbs
  let u : Int := max (binaryExponent n x.den - 52) (-1074)
  let m : Nat :=
    if 0 ≤ u then roundHalfEven n (x.den * 2 ^ u.toNat)
    else roundHalfEven (n * 2 ^ (-u).toNat) x.den
  let magnitude : Rat := if 0 ≤ u then (m * 2 ^ u.toNat : Nat) else (m : Rat) / (2 ^ (-u).toNat : Nat)
  if x < 0 then -magnitude else magnitude

/-- A quantity with its finite value rounded to binary64; the classes stay (R151). -/
def roundQuantity64 : Quantity → Quantity
  | .finite x => .finite (roundBinary64 x)
  | .posInf => .posInf
  | .negInf => .negInf
  | .nan => .nan

/-- `si * (360.0 / 32768.0)` (R160). -/
def angleBinary64 (raw : Word) : Quantity :=
  roundQuantity64 (.finite ((sext15 raw : Rat) * roundBinary64 (360 / 32768)))

/-- `(si + 152.0) / 2.776` (R160). -/
def temperatureBinary64 (raw : Word) : Quantity :=
  roundQuantity64 (.finite (roundBinary64 ((sext9 raw : Rat) + 152) / roundBinary64 (347 / 125)))

/-- `360.0 * (128.0 / v)` (R160). -/
def rangeBinary64 (v : Word) : Quantity :=
  roundQuantity64 ((roundQuantity64 ((Quantity.finite 128).divRat (v.toNat : Rat))).mulRat 360)

/-- `((rng / 32768.0) * si) / ((p * T) * 1e-6)` (R160). -/
def speedBinary64 (rng : Quantity) (raw v : Word) (pred : Bool) : Quantity :=
  let num := roundQuantity64
    ((roundQuantity64 (rng.divRat 32768)).mulRat (sext15 raw))
  let pt := roundBinary64 (predictionMode pred * roundBinary64 (firMicroseconds v))
  let den := roundBinary64 (pt * roundBinary64 (1 / 1000000))
  roundQuantity64 (num.divRat den)

end Sys2Proof.Machine
end

