-- ==== Sys2Proof/Machine/Transport.lean ====
section
/-! DEFINITION. The environment of the block as the spec bounds it: the host object (Sensor Facade) with
its lifecycle (spec/60_exceptions.md R181), the Transport Port as an oracle (spec/20_memory.md R41),
and the open parameters of the host sequences (spec/00_scope.md R5). None of it is state of the
block (spec/10_state.md R19, R20; assumption log 13). -/

namespace Sys2Proof.Machine

/-! ### Parameters -/

/-- The parameters the spec leaves open to the host (R5; 92_eei_decisions.md D26 to D30), and the two
that `begin` needs (91_not_in_source.md N5; assumption log 17). -/
structure HostParams where
  /-- The number of field identifiers of `FIELD_TABLE`. -/
  fieldCount : Nat
  /-- `FIELD_TABLE`: a total lookup on a finite identifier (R121). -/
  fieldTable : Vector Descriptor fieldCount
  /-- `RESET_SAFETY_CMD` (R177). -/
  resetSafetyCmd : Word
  /-- `BLOCK_CRC_CMD` (R135). -/
  blockCrcCmd : Word
  /-- `REGMAP_CMDS`, four command words (R133). -/
  regmapCmds : Vector Word 4
  /-- `WRITE_PENDING`, a predicate on the status value (R134). -/
  writePending : Word → Bool
  /-- `REGEN_RETRY`, the number of extra passes; `none` is the unbounded reading, in which each pass may
  recurse again (R134, 93_implementation_defined.md U9). -/
  regenRetry : Option Nat
  /-- The register that holds the slave number (R182). -/
  slaveReg : RegIndex
  /-- The value `begin` writes there (R182). -/
  slaveValue : Word

/-- The sensor addresses a read command asks for: `nd` consecutive ones from `addr` (R33). -/
def readAddresses (cmd : Word) : List Nat :=
  (List.range (commandFields cmd).nd.toNat).map ((commandFields cmd).addr.toNat + ·)

/-- What the spec asks of the parameters: well-formed descriptors (R65, U5), `READ` forms, the safety
flag of the dummy read (R177), start and count of the block read (R135), and that the four reads of
the register map together reach every one of the 22 mapped addresses, the postcondition of R133. -/
abbrev HostParams.WellFormed (p : HostParams) : Prop :=
  (∀ d ∈ p.fieldTable.toList, d.WellFormed) ∧
    (commandKind p.resetSafetyCmd = .read ∧ p.resetSafetyCmd[0] = true) ∧
    (commandKind p.blockCrcCmd = .read ∧ (commandFields p.blockCrcCmd).addr = 0x08 ∧
      8 ≤ (commandFields p.blockCrcCmd).nd.toNat) ∧
    p.regmapCmds.toList.all (fun c => commandKind c = .read) = true ∧
    (List.finRange 22).all (fun i =>
      (p.regmapCmds.toList.flatMap readAddresses).contains ((regOff i).toNat / 16)) = true

/-! ### The host object and the oracle -/

/-- The lifecycle of the Facade (R181). -/
inductive Lifecycle where
  | uninitialized
  | ready
  | faulted
  | ended
deriving DecidableEq, Repr

/-- What the Transport Port answers to one call: success with any words (R41; U14), or the opaque error
`E` (R175). `init`, `deinit` and `trigger_update` return no words. -/
inductive Answer where
  | success (rx : List Word)
  | failure
deriving DecidableEq, Repr

/-- One call made on the Transport Port and how it ended (R41): "exactly the four methods". -/
inductive WireCall where
  | init (succeeded : Bool)
  | deinit (succeeded : Bool)
  | trigger (succeeded : Bool)
  | exchange (tx : List Word) (rx : Option (List Word))
deriving DecidableEq, Repr

/-- The host object: the block it owns, its lifecycle, the Transport Port's coming answers, and the
calls made so far, oldest first (assumption logs 13 and 14). -/
structure Facade where
  block : Block
  life : Lifecycle
  answers : List Answer
  wire : List WireCall
deriving DecidableEq, Repr

/-- Construction of the Facade, the reset event of the block (R200, R201), before a Transport Port that
will give these answers. -/
def Facade.construct (answers : List Answer) : Facade :=
  { block := Block.reset, life := .uninitialized, answers := answers, wire := [] }

/-- How a host sequence ends. -/
inductive HostOutcome (α : Type) where
  /-- It returns a code and a value, a zero value when the code is not `OK` (R189). -/
  | done (st : ResultCode) (val : α) (f : Facade)
  /-- A Transport call never returned: "leaves the host `stuck`" (U15). -/
  | blocked (f : Facade)
  /-- The lifecycle does not allow the sequence (R181, U16). -/
  | notAllowed
deriving DecidableEq, Repr

/-- Go on where the code is `OK`; any other code ends the sequence with that code and a zero value. -/
def HostOutcome.andThen {α β : Type} (r : HostOutcome α) (zero : β)
    (k : α → Facade → HostOutcome β) : HostOutcome β :=
  match r with
  | .done .ok v f => k v f
  | .done st _ f => .done st zero f
  | .blocked f => .blocked f
  | .notAllowed => .notAllowed

/-! ### Calls -/

/-- The state after an operation. `exec` always answers a next state (Laws: `exec_answers_next`). -/
def runOperation (i : Instr) (s : State) : State :=
  match exec i s with
  | .next t => t
  | .fault _ => s
  | .refused _ => s

/-- What one operation answers on the block alone, through `exec` (R8): its outputs and the block it
leaves. -/
def Block.operate (b : Block) (i : Instr) : Result :=
  let t := runOperation i { toBlock := b, outs := {}, offers := [] }
  (t.outs, t.toBlock)

/-- The Facade after one operation of the block it owns. -/
def Facade.invoke (f : Facade) (i : Instr) : Facade := { f with block := (f.block.operate i).2 }

/-- The host invokes one operation of the block and goes on with its outputs (R8). -/
def Facade.call {α : Type} (f : Facade) (i : Instr) (k : Outputs → Facade → α) : α :=
  k (f.block.operate i).1 (f.invoke i)

/-- One call on the Transport Port: it consumes the next answer and is logged. With no answer left the
call does not return (assumption log 14). -/
def Facade.transport (f : Facade) (log : Option (List Word) → WireCall) :
    HostOutcome (List Word) :=
  match f.answers with
  | [] => .blocked f
  | .failure :: rest =>
    .done .transportError [] { f with answers := rest, wire := f.wire ++ [log none] }
  | .success rx :: rest =>
    .done .ok rx { f with answers := rest, wire := f.wire ++ [log (some rx)] }

/-- The receive buffer of `n` words after an exchange that delivered `rx`: exactly `n` words (R58;
assumption log 14). -/
def receiveFrame (n : Nat) (rx : List Word) : List Word := (List.range n).map fun k => rx.getD k 0

/-- `Transport.trigger_update()` (R39, R41). -/
def Facade.trigger (f : Facade) : HostOutcome (List Word) :=
  f.transport fun r => .trigger r.isSome

/-- `Transport.send_receive(tx)` for `n` words (R41, R42, R58). -/
def Facade.exchange (f : Facade) (tx : List Word) (n : Nat) : HostOutcome (List Word) :=
  (f.transport fun r => .exchange tx (r.map (receiveFrame n))).andThen [] fun rx g =>
    .done .ok (receiveFrame n rx) g

/-- The host invokes `CHECK` and goes on with its code. A result with `reset_req = 1` moves the Facade to
`Faulted` and makes `reset_safety` due (R109, R178, R183). -/
def Facade.check {α : Type} (f : Facade) (w cmd : Word) (pl : List Word)
    (k : ResultCode → Facade → α) : α :=
  f.call (.check w cmd pl) fun o f =>
  k o.st (if o.resetReq then { f with life := .faulted } else f)

/-- `Ready` or `Faulted`, the states in which a host sequence may run (R181). -/
def Facade.usable (f : Facade) : Bool := f.life = .ready || f.life = .faulted

end Sys2Proof.Machine
end

