-- ==== Sys2Proof/Machine/HostSequences.lean ====
section
/-! DEFINITION. The host sequences the spec prescribes (spec/42_register_bitfield.md section 3,
spec/60_exceptions.md R177, R182, R184): fixed orders of block operations and Transport calls.
They are not operations of the block and no `Instr`; each runs its operations through `exec`. In
every one a failing Transport call ends the sequence with `TransportError` (R175). -/

namespace Sys2Proof.Machine

/-! ### Recovery (R177, R178) -/

/-- The steps of `reset_safety`: trigger, one dummy read, its words discarded and not checked; then the
Facade is `Ready` again (R177, R183). The block is not touched. -/
def resetSafetySteps (p : HostParams) (f : Facade) : HostOutcome Unit :=
  f.trigger.andThen () fun _ f =>
  (f.exchange [p.resetSafetyCmd] (commandFields p.resetSafetyCmd).rxn.toNat).andThen () fun _ f =>
  .done .ok () { f with life := .ready }

/-- The host's duty after a `CHECK` with `reset_req = 1`: `reset_safety` before the next safety-checked
exchange (R178, R210). `due` says that the exchange to come is safety-checked. (Paid here, before
that exchange's own trigger: assumption log 15.) -/
def payReset (p : HostParams) (due : Bool) (f : Facade) : HostOutcome Unit :=
  if due && f.life = .faulted then resetSafetySteps p f else .done .ok () f

/-! ### Reading and writing one register (R130, R131, R132) -/

/-- Steps 3 to 5 of R130: build the read, exchange it, check the frame; the data word. -/
def safeRead (ri : BitVec 5) (upd : Bool) (f : Facade) : HostOutcome Word :=
  f.call (.buildRd ri upd true 1) fun o f =>
  if o.st ≠ .ok then .done o.st 0 f else
  (f.exchange [o.out] o.rxn.toNat).andThen 0 fun rx f =>
  f.check (rx.getD 1 0) o.out [rx.getD 0 0] fun st f =>
  if st ≠ .ok then .done st 0 f else .done .ok (rx.getD 0 0) f

/-- Steps 2 to 4 of R131: build the write, exchange it with the data word, check the answer (R42). -/
def safeWrite (p : HostParams) (ri : BitVec 5) (new : Word) (f : Facade) : HostOutcome Unit :=
  f.call (.buildWr ri true) fun o f =>
  if o.st ≠ .ok then .done o.st () f else
  (payReset p true f).andThen () fun _ f =>
  (f.exchange [o.out, new] 1).andThen () fun rx f =>
  f.check (rx.getD 0 0) o.out [new] fun st f => .done st () f

/-- `read_register(ri, upd)` without the lifecycle test (R132). -/
def readRegisterSteps (p : HostParams) (ri : RegIndex) (upd : Bool) (f : Facade) :
    HostOutcome Word :=
  (payReset p true f).andThen 0 fun _ f =>
  (safeRead ri.toPort upd f).andThen 0 fun x f =>
  .done .ok x (f.invoke (.cacheWr ri.toPort x))

/-! ### The CRC-protected block (R134, R135) -/

/-- Store words in slots 8 to 15 with `CACHE_WR`, in order (R135). -/
def storeBlock (ws : List Word) (f : Facade) : Facade :=
  (List.range 8).foldl
    (fun g k => g.invoke (.cacheWr (BitVec.ofNat 5 (8 + k)) (ws.getD k 0))) f

/-- One block exchange with a given read command, validated with `CHECK` over all `nd` data words if
its `safe` bit is 1 (R133, R135); the data words. -/
def blockRead (p : HostParams) (cmd : Word) (f : Facade) : HostOutcome (List Word) :=
  let c := commandFields cmd
  (payReset p c.safe f).andThen [] fun _ f =>
  (f.exchange [cmd] c.rxn.toNat).andThen [] fun rx f =>
  let data := rx.take c.nd.toNat
  if c.safe then
    f.check (rx.getD c.nd.toNat 0) cmd data fun st f =>
    if st ≠ .ok then .done st [] f else .done .ok data f
  else .done .ok data f

/-- `read_block_crc()` without the lifecycle test (R135). -/
def readBlockCrcSteps (p : HostParams) (f : Facade) : HostOutcome Unit :=
  (blockRead p p.blockCrcCmd f).andThen () fun data f => .done .ok () (storeBlock data f)

/-- The first of two codes that is not `OK` (R134 step 6). -/
def firstError (a b : ResultCode) : ResultCode := if a = .ok then b else a

/-- Steps 2 to 5b of R134: compute the block's CRC and write the last register of the block. -/
def writeBlockCrc (p : HostParams) (f : Facade) : HostOutcome Unit :=
  f.call .blockCrc fun o f => safeWrite p RegIndex.tcoY.toPort o.out f

/-- The passes of `regenerate_crc()` (R134): `acc` is the first non-`OK` result met so far, the `Nat`
the retries left (assumption log 16). -/
def regeneratePasses (p : HostParams) : Nat → ResultCode → Facade → HostOutcome Unit
  | retries, acc, f =>
    match readBlockCrcSteps p f with
    | .done .ok _ f =>
      match writeBlockCrc p f with
      | .done .transportError _ f => .done .transportError () f
      | .done st _ f =>
        let acc := firstError acc st
        match readRegisterSteps p RegIndex.stat false f with
        | .done .ok stat f =>
          if p.writePending stat then
            match retries with
            | 0 => .done acc () f
            | retries + 1 => regeneratePasses p retries acc f
          else .done acc () f
        | .done .transportError _ f => .done .transportError () f
        | .done st _ f => .done (firstError acc st) () f
        | .blocked f => .blocked f
        | .notAllowed => .notAllowed
      | .blocked f => .blocked f
      | .notAllowed => .notAllowed
    | .done .transportError _ f => .done .transportError () f
    | .done st _ f => .done (firstError acc st) () f
    | .blocked f => .blocked f
    | .notAllowed => .notAllowed

/-- The extra passes `regenerate_crc()` may make (R134). In the unbounded reading their number is set by
the Transport Port's answers alone: a pass that asks for another one has used up at least three of
them, so with as many retries as answers no retry limit is ever met, and a run that never sees the
write applied ends in `blocked` when the answers end, however many there are: it need not
terminate. -/
def retriesAllowed (p : HostParams) (f : Facade) : Nat :=
  match p.regenRetry with
  | some n => n
  | none => f.answers.length

/-- `regenerate_crc()` without the lifecycle test (R134). -/
def regenerateCrcSteps (p : HostParams) (f : Facade) : HostOutcome Unit :=
  regeneratePasses p (retriesAllowed p f) .ok f

/-- Write a word to the sensor and, in the CRC-protected block, regenerate its CRC: "its result
replaces st, whatever st was" (R131 steps 2 to 6). A Transport failure ends it (R175). -/
def writeAndRegenerate (p : HostParams) (ri : BitVec 5) (new : Word) (inCrcBlock : Bool)
    (f : Facade) : HostOutcome Unit :=
  match safeWrite p ri new f with
  | .done .transportError _ f => .done .transportError () f
  | .done st _ f => if inCrcBlock then regenerateCrcSteps p f else .done st () f
  | .blocked f => .blocked f
  | .notAllowed => .notAllowed

/-- `write_register(ri, value)` without the lifecycle test (R132). -/
def writeRegisterSteps (p : HostParams) (ri : RegIndex) (value : Word) (f : Facade) :
    HostOutcome Unit :=
  writeAndRegenerate p ri.toPort value (inBlock ri) (f.invoke (.cacheWr ri.toPort value))

/-! ### The sequences -/

/-- A host sequence runs in `Ready` or `Faulted` only (R181, U16). -/
def Facade.whenUsable {α : Type} (f : Facade) (k : Facade → HostOutcome α) : HostOutcome α :=
  if f.usable then k f else .notAllowed

/-- `reset_safety()` (R177). -/
def resetSafety (p : HostParams) (f : Facade) : HostOutcome Unit :=
  f.whenUsable (resetSafetySteps p)

/-- `get_bit_field(d)` (R130): the access test first, then the trigger where the descriptor asks for
one, then the read, then the extraction. -/
def getBitField (p : HostParams) (d : Descriptor) (f : Facade) : HostOutcome Word :=
  f.whenUsable fun f =>
  f.call (.fldChk d false) fun o f =>
  if o.st ≠ .ok then .done o.st 0 f else
  (payReset p true f).andThen 0 fun _ f =>
  (if o.needTrigger then f.trigger else .done .ok [] f).andThen 0 fun _ f =>
  (safeRead d.reg o.needTrigger f).andThen 0 fun x f =>
  f.call (.fldGet d x) fun o f => .done o.st o.out f

/-- `set_bit_field(d, v)` (R131). -/
def setBitField (p : HostParams) (d : Descriptor) (v : Word) (f : Facade) : HostOutcome Unit :=
  f.whenUsable fun f =>
  f.call (.fldSet d v) fun o f =>
  if o.st ≠ .ok then .done o.st () f else
  writeAndRegenerate p d.reg o.out o.inCrcBlock f

/-- `get_bit_field` by field identifier: the lookup in `FIELD_TABLE` is total (R121). -/
def getField (p : HostParams) (id : Fin p.fieldCount) (f : Facade) : HostOutcome Word :=
  getBitField p p.fieldTable[id] f

/-- `set_bit_field` by field identifier (R121). -/
def setField (p : HostParams) (id : Fin p.fieldCount) (v : Word) (f : Facade) :
    HostOutcome Unit :=
  setBitField p p.fieldTable[id] v f

/-- `read_register(ri, upd)` (R132). -/
def readRegister (p : HostParams) (ri : RegIndex) (upd : Bool) (f : Facade) : HostOutcome Word :=
  f.whenUsable (readRegisterSteps p ri upd)

/-- `write_register(ri, value)` (R132). -/
def writeRegister (p : HostParams) (ri : RegIndex) (value : Word) (f : Facade) :
    HostOutcome Unit :=
  f.whenUsable (writeRegisterSteps p ri value)

/-- `read_block_crc()` (R135). -/
def readBlockCrc (p : HostParams) (f : Facade) : HostOutcome Unit :=
  f.whenUsable (readBlockCrcSteps p)

/-- `regenerate_crc()` (R134). -/
def regenerateCrc (p : HostParams) (f : Facade) : HostOutcome Unit :=
  f.whenUsable (regenerateCrcSteps p)

/-- The index of the register at sensor address `a`, if it is in the map (R59); addresses do not wrap
(91_not_in_source.md N25). -/
def indexAtAddress (a : Nat) : Option RegIndex :=
  if a < 64 then regIdx (BitVec.ofNat 16 a <<< 4) else none

/-- `CACHE_WR` of every word of a block read whose address is in the map; the words answer ascending
addresses from `a` (R33, R133). -/
def storeMapped (a : Nat) (ws : List Word) (f : Facade) : Facade :=
  match ws with
  | [] => f
  | w :: rest =>
    let f := match indexAtAddress a with
      | some i => f.invoke (.cacheWr i.toPort w)
      | none => f
    storeMapped (a + 1) rest f

/-- The exchanges of `read_register_map()`, one after another (R133). -/
def readMapSteps (p : HostParams) : List Word → Facade → HostOutcome Unit
  | [], f => .done .ok () f
  | cmd :: rest, f =>
    (blockRead p cmd f).andThen () fun data f =>
    readMapSteps p rest (storeMapped (commandFields cmd).addr.toNat data f)

/-- `read_register_map()` (R133). -/
def readRegisterMap (p : HostParams) (f : Facade) : HostOutcome Unit :=
  f.whenUsable (readMapSteps p p.regmapCmds.toList)

/-- One input of a value getter: "one or more `read_register`/`get_bit_field` sequences" (R136). Which
registers and fields they are is not given beyond `AVAL` (91_not_in_source.md N5; assumption log
19). -/
inductive GetterInput where
  | register (ri : RegIndex) (upd : Bool)
  | field (d : Descriptor)
deriving DecidableEq, Repr

/-- Read one input of a getter (R136). -/
def readInput (p : HostParams) (input : GetterInput) (f : Facade) : HostOutcome Word :=
  match input with
  | .register ri upd => readRegister p ri upd f
  | .field d => getBitField p d f

/-- Read the inputs of a getter in order; the first error ends it (R136, R189). -/
def readInputs (p : HostParams) : List GetterInput → Facade → HostOutcome (List Word)
  | [], f => .done .ok [] f
  | input :: rest, f =>
    (readInput p input f).andThen [] fun x f =>
    (readInputs p rest f).andThen [] fun xs f =>
    .done .ok (x :: xs) f

/-- What a value getter returns beside its code: the physical quantity with its class and the signed
integer and pattern it comes from, so that an infinite or `NAN` range or speed is seen as such (R151)
and a revolution count, which has no `q`, is seen at all (R153). Every default is zero. -/
structure Measurement where
  si : Int := 0
  out : Word := 0
  qc : QClass := .finite
  q : Quantity := .finite 0
deriving DecidableEq, Repr

/-- The ports of a conversion that a getter passes on. -/
def Outputs.measurement (o : Outputs) : Measurement := ⟨o.si, o.out, o.qc, o.q⟩

/-- A value getter of one input: the read, then a conversion of the word read; on any error the
conversion is not invoked and the quantity is zero (R136, R189). -/
def valueGetter (p : HostParams) (input : GetterInput) (conversion : Word → Instr) (f : Facade) :
    HostOutcome Measurement :=
  (readInput p input f).andThen {} fun x f =>
  f.call (conversion x) fun o f => .done o.st o.measurement f

/-- `get_angle_value()` (R136). -/
def getAngleValue (p : HostParams) (f : Facade) : HostOutcome Measurement :=
  valueGetter p (.register RegIndex.aval false) (fun raw => .cnvAngle raw) f

/-- The revolution count getter (R136, R153). -/
def getRevolutions (p : HostParams) (input : GetterInput) (f : Facade) : HostOutcome Measurement :=
  valueGetter p input (fun raw => .cnvRevol raw) f

/-- The temperature getter (R136, R154). -/
def getTemperature (p : HostParams) (input : GetterInput) (f : Facade) : HostOutcome Measurement :=
  valueGetter p input (fun raw => .cnvTemp raw) f

/-- The angle range getter (R136, R155). -/
def getAngleRange (p : HostParams) (input : GetterInput) (f : Facade) : HostOutcome Measurement :=
  valueGetter p input (fun v => .cnvRange v) f

/-- What the outputs of a conversion carry on to a quantity operand: the class, and the value where it
is finite (R151). -/
def Outputs.quantity (o : Outputs) : Quantity :=
  match o.qc with
  | .finite => o.q
  | .posInf => .posInf
  | .negInf => .negInf
  | .nan => .nan

/-- A speed getter: "needs four inputs (raw speed, range, FIR mode, prediction bit) and hence several
exchanges"; the range word goes through `CNV_RANGE`, its quantity into `CNV_SPEED` (R136, R156). -/
def speedGetter (p : HostParams) (speed range fir pred : GetterInput) (f : Facade) :
    HostOutcome Measurement :=
  (readInputs p [speed, range, fir, pred] f).andThen {} fun xs f =>
  f.call (.cnvRange (xs.getD 1 0)) fun o f =>
  f.call (.cnvSpeed o.quantity (xs.getD 0 0) (xs.getD 2 0) (xs.getD 3 0 != 0)) fun o f =>
  .done o.st o.measurement f

/-- `begin()` (R182, R205; assumption log 17): `init`, then `Ready`; the write of the slave-number
register; `read_block_crc()`, whose result is what it returns. Only in `Uninitialized`. -/
def beginSession (p : HostParams) (f : Facade) : HostOutcome Unit :=
  if f.life ≠ .uninitialized then .notAllowed else
  (f.transport fun r => .init r.isSome).andThen () fun _ f =>
  match writeRegisterSteps p p.slaveReg p.slaveValue { f with life := .ready } with
  | .done .transportError _ f => .done .transportError () f
  | .done _ _ f => readBlockCrcSteps p f
  | .blocked f => .blocked f
  | .notAllowed => .notAllowed

/-- `end()` (R184; assumption log 18): `deinit`, then `Ended`, a terminal state. The cache is
"invalidated (conceptually)": no bit of the block changes (R12, R202). -/
def endSession (f : Facade) : HostOutcome Unit :=
  f.whenUsable fun f =>
  (f.transport fun r => .deinit r.isSome).andThen () fun _ f =>
  .done .ok () { f with life := .ended }

end Sys2Proof.Machine
end

