-- ==== Sys2Proof/Machine/Pseudo.lean ====
section
/-! DEFINITION. Straight-line lists of operations, as the host runs them (spec/10_state.md R14,
spec/20_memory.md R38), and the pseudo-operations of spec/30_encoding.md R68. -/

namespace Sys2Proof.Machine

/-- A list of operations, one after another, each on the state the one before left (R38). -/
def runOperations (is : List Instr) (s : State) : State := is.foldl (fun t i => runOperation i t) s

/-- The pseudo-operation `CRC8 [b0, ..., bn-1]` (R68). -/
def pseudoCrc8 (bs : List Byte) : List Instr :=
  .crcInit :: bs.map (fun b => .crcByte b) ++ [.crcRead]

/-- The pseudo-operation `CRC_WORD w` as two `CRC_BYTE` (R68). -/
def pseudoCrcWord (w : Word) : List Instr := [.crcByte (hi8 w), .crcByte (lo8 w)]

/-- The streamed CRC of a transaction (R110): `CRC_INIT; CRC_WORD cmd; CRC_WORD pl[0]; ...`. -/
def streamTransaction (cmd : Word) (pl : List Word) : List Instr :=
  .crcInit :: (cmd :: pl).map fun w => .crcWord w

end Sys2Proof.Machine
end

