-- ==== Sys2Proof/Safety.lean ====
section
/-! DEFINITION. What counts as a good state or a good run, in the terms the statements use; and the
premises on the sensor that a claim about the whole system must name (spec/10_state.md R20). -/

namespace Sys2Proof.Machine

/-! ### Outputs and what an error records -/

/-- The outputs have the shape of R170: "On every non-`OK` code all outputs other than `st` and
`reset_req` are zero"; `reset_req` as R109; `TransportError` is never the block's (R175); the ports
that carry a number are within their range (R63, R158). -/
abbrev Outputs.Shaped (o : Outputs) : Prop :=
  (o.st ≠ .ok → o = { st := o.st, resetReq := o.resetReq }) ∧
    (o.resetReq = true ↔ o.st = .systemError ∨ o.st = .crcError) ∧
    o.st ≠ .transportError ∧ o.rxn.toNat ≤ 16 ∧ -16384 ≤ o.si ∧ o.si ≤ 16383

/-- What the code in the outputs records (R170, last column): a protocol code leaves in `SAFETY_LAST` a
safety word with the bits that gave it, and `CrcError` in `CRC_ACC` the accumulator whose
complement is the expected CRC. -/
def State.Recorded (s : State) : Prop :=
  (s.outs.st = .systemError → ∃ w, s.safetyLast = some w ∧ w[14] = false) ∧
    (s.outs.st = .interfaceAccessError →
      ∃ w, s.safetyLast = some w ∧ w[14] = true ∧ w[13] = false) ∧
    (s.outs.st = .invalidAngleError →
      ∃ w, s.safetyLast = some w ∧ w[14] = true ∧ w[13] = true ∧ w[12] = false) ∧
    (s.outs.st = .crcError →
      ∃ w, s.safetyLast = some w ∧ w[14] = true ∧ w[13] = true ∧ w[12] = true ∧
        lo8 w ≠ ~~~ s.crcAcc)

end Sys2Proof.Machine

namespace Sys2Proof

/-! ### Which operations touch which state -/

/-- The operation may write cache slot `k`: `CACHE_WR`, `FLD_GET`, `FLD_SET` at their index, and
`BLOCK_CRC` at slot 15 (R11). -/
def Instr.writesSlot (i : Instr) (k : RegIndex) : Bool :=
  match i with
  | .cacheWr ri _ => ri.toNat = k.val
  | .fldGet d _ => d.reg.toNat = k.val
  | .fldSet d _ => d.reg.toNat = k.val
  | .blockCrc => k.val = 15
  | .nop | .regoff _ | .buildRd _ _ _ _ | .buildWr _ _ | .decCmd _ | .decSafe _ | .crcInit
  | .crcByte _ | .crcWord _ | .crcRead | .check _ _ _ | .cacheRd _ | .fldChk _ _ | .cnvAngle _
  | .cnvRevol _ | .cnvTemp _ | .cnvRange _ | .cnvSpeed _ _ _ _ | .reserved06 | .reserved07
  | .reserved0D | .reserved0E | .reserved0F | .reserved16 | .reserved17 | .reserved1D
  | .reserved1E | .reserved1F | .cmdRead _ _ _ | .cmdWrite _ _ _ | .safetyWord _ _ _ _ _ _ => false

/-- The operation may write `CRC_ACC` (R13). -/
def Instr.writesCrcAcc (i : Instr) : Bool :=
  match i with
  | .crcInit | .crcByte _ | .crcWord _ | .check _ _ _ | .blockCrc => true
  | .nop | .regoff _ | .buildRd _ _ _ _ | .buildWr _ _ | .decCmd _ | .decSafe _ | .crcRead
  | .cacheWr _ _ | .cacheRd _ | .fldGet _ _ | .fldSet _ _ | .fldChk _ _ | .cnvAngle _
  | .cnvRevol _ | .cnvTemp _ | .cnvRange _ | .cnvSpeed _ _ _ _ | .reserved06 | .reserved07
  | .reserved0D | .reserved0E | .reserved0F | .reserved16 | .reserved17 | .reserved1D
  | .reserved1E | .reserved1F | .cmdRead _ _ _ | .cmdWrite _ _ _ | .safetyWord _ _ _ _ _ _ => false

/-- The operation writes `SAFETY_LAST`: `CHECK` alone (R15). -/
def Instr.writesSafetyLast (i : Instr) : Bool :=
  match i with
  | .check _ _ _ => true
  | .nop | .regoff _ | .buildRd _ _ _ _ | .buildWr _ _ | .decCmd _ | .decSafe _ | .crcInit
  | .crcByte _ | .crcWord _ | .crcRead | .cacheWr _ _ | .cacheRd _ | .fldGet _ _ | .fldSet _ _
  | .blockCrc | .fldChk _ _ | .cnvAngle _ | .cnvRevol _ | .cnvTemp _ | .cnvRange _
  | .cnvSpeed _ _ _ _ | .reserved06 | .reserved07 | .reserved0D | .reserved0E | .reserved0F
  | .reserved16 | .reserved17 | .reserved1D | .reserved1E | .reserved1F | .cmdRead _ _ _
  | .cmdWrite _ _ _ | .safetyWord _ _ _ _ _ _ => false

end Sys2Proof

namespace Sys2Proof.Machine

/-! ### The parameter block and the CRC in plain numbers -/

/-- The CRC-protected-block invariant, on the cache (R128). -/
def Block.BlockCrcHolds (b : Block) : Prop := lo8 (b.slot 15) = crc8 b.blockBytes

/-- The column `addr` of R59: the sensor address of each register, by logical index. -/
def sensorAddresses : List Nat :=
  [0x00, 0x01, 0x02, 0x03, 0x04, 0x05, 0x06, 0x07, 0x08, 0x09, 0x0A, 0x0B, 0x0C, 0x0D, 0x0E, 0x0F,
    0x10, 0x11, 0x14, 0x15, 0x20, 0x30]

/-- The sensor address of a register, by logical index (R59); 0 above 21, where there is none. -/
def sensorAddress (ri : BitVec 5) : Nat := sensorAddresses.getD ri.toNat 0

/-- What an operation that writes cache slots leaves alone (R31, R122): the two small registers and the
host's coming invocations. -/
abbrev State.SameBesideCache (s t : State) : Prop :=
  t.crcAcc = s.crcAcc ∧ t.safetyLast = s.safetyLast ∧ t.offers = s.offers

/-- The XOR of two byte sequences, byte by byte (R112). -/
def xorBytes (x y : List Byte) : List Byte := List.zipWith (· ^^^ ·) x y

/-- One round of R101 on plain numbers: the test is on the value before the shift. -/
def crcRoundNat (a : Nat) : Nat := if 128 ≤ a then (2 * a - 256) ^^^ 0x1D else 2 * a

/-- `crc_step` of R101 on plain numbers. -/
def crcStepNat (acc b : Nat) : Nat := crcRoundNat^[8] (acc ^^^ b)

/-- The accumulator after a 16-bit word on plain numbers: high byte, then low byte (R34, R106). -/
def crcWordNat (acc w : Nat) : Nat := crcStepNat (crcStepNat acc (w / 256)) (w % 256)

/-- The signed reading of the low `n` bits of a word, as a remainder (R158). -/
def signed (n : Nat) (raw : Word) : Int :=
  ((raw.toNat + 2 ^ (n - 1)) % 2 ^ n : Nat) - 2 ^ (n - 1)

/-! ### Premises on the sensor (R20, R39, R176)

The oracle may answer anything. These Boolean tests on a log of Transport calls say when its answers keep
what R39 and R176 promise of the sensor, and no more: wherever the spec does not say what a call does to
the sensor, or what the sensor answers, they demand nothing (assumption log 27). -/

/-- The command the spec says an answer to: a `READ` of at least one word, every address of which is in the
map (elsewhere any value, U2, U3; what lies across the gaps of the map is not said,
91_not_in_source.md N25), or a `WRITE` as `BUILD_WR` builds it with the safety flag, of a mapped
register. -/
def understoodCommand (cmd : Word) : Bool :=
  let c := commandFields cmd
  match c.kind with
  | .read => c.nd != 0 && (readAddresses cmd).all (sensorAddresses.contains ·)
  | .write => c.nd = 1 && !c.upd && sensorAddresses.contains c.addr.toNat
  | .other => false

/-- The command and the words received of an exchange that succeeded, in the frame of R58 or R42 and with
a command the spec says an answer to. -/
def WireCall.frame? : WireCall → Option (CmdFields × List Word)
  | .exchange [cmd] (some rx) =>
    if understoodCommand cmd && (commandFields cmd).kind = .read then some (commandFields cmd, rx)
    else none
  | .exchange [cmd, _] (some rx) =>
    if understoodCommand cmd && (commandFields cmd).kind = .write then some (commandFields cmd, rx)
    else none
  | .exchange _ _ | .init _ | .deinit _ | .trigger _ => none

/-- The update flag, the address and the data words, where the call is a read (R33, R52, R58). -/
def WireCall.readWords (call : WireCall) : Option (Bool × Nat × List Word) :=
  match call.frame? with
  | some (c, rx) =>
    if c.kind = .read then some (c.upd, c.addr.toNat, rx.take c.nd.toNat) else none
  | none => none

/-- The safety word of the call, where its command carries the safety flag: after the data words of a
read, alone after a write (R58, R42). -/
def WireCall.safetyWord? (call : WireCall) : Option Word :=
  match call.frame? with
  | some (c, rx) =>
    if c.safe then (if c.kind = .read then rx[c.nd.toNat]? else rx[0]?) else none
  | none => none

/-- Merge words read at addresses from `a` on into a snapshot, those of update-buffer registers only; none
where such a word differs from the one already known for its address. -/
def mergeSnapshot (buffered : Nat → Bool) :
    Nat → List Word → List (Nat × Word) → Option (List (Nat × Word))
  | _, [], known => some known
  | a, w :: ws, known =>
    if buffered a then
      match known.lookup a with
      | some x => if x = w then mergeSnapshot buffered (a + 1) ws known else none
      | none => mergeSnapshot buffered (a + 1) ws ((a, w) :: known)
    else mergeSnapshot buffered (a + 1) ws known

/-- The snapshot premise (R20(a), R39): after a trigger that succeeded and until the next trigger call,
every update-sourced read of an update-buffer register answers the word of one snapshot. `buffered`
says which addresses are update-buffer registers: the list is missing from the spec
(91_not_in_source.md N13), so a claim holds for any. The last argument holds the words seen of the
snapshot in force, and is `none` where no snapshot is: before the first trigger, after a trigger that
failed, after `init` or `deinit` (assumption log 27). -/
def snapshotHolds (buffered : Nat → Bool) : List WireCall → Option (List (Nat × Word)) → Bool
  | [], _ => true
  | .trigger true :: rest, _ => snapshotHolds buffered rest (some [])
  | .trigger false :: rest, _ | .init _ :: rest, _ | .deinit _ :: rest, _ =>
    snapshotHolds buffered rest none
  | .exchange _ _ :: rest, none => snapshotHolds buffered rest none
  | call :: rest, some known =>
    match call.readWords with
    | some (true, a, ws) =>
      match mergeSnapshot buffered a ws known with
      | some known => snapshotHolds buffered rest (some known)
      | none => false
    | some (false, _, _) | none => snapshotHolds buffered rest (some known)

/-- The call is an exchange: it neither triggers nor opens or closes the port. -/
def WireCall.isExchange : WireCall → Bool
  | .exchange _ _ => true
  | .init _ | .deinit _ | .trigger _ => false

/-- The call may have re-read the status register, address 0 (R37(a), R176): a read at that address, and
every call of which the spec does not say what it does to the sensor: one that failed, an exchange
that is no frame of R58 or R42 or whose command the spec says no answer to, `init` and `deinit`. A
trigger that succeeded is no re-read (assumption log 27). -/
def WireCall.mayRereadStatus : WireCall → Bool
  | .trigger true => false
  | call =>
    match call.frame? with
    | some (c, _) => c.kind = .read && c.addr = 0
    | none => true

/-- The latch premise (R20(b), R176): a status bit, once 0 in a safety word, stays 0 in every later one
until a call that may have re-read the status register. The safety word of the re-read itself still
carries the stale bits (R177). `latched` has a 1 at each bit latched low. -/
def latchHolds : List WireCall → Word → Bool
  | [], _ => true
  | call :: rest, latched =>
    match call.safetyWord? with
    | some w =>
      w &&& latched = 0 &&
        latchHolds rest (if call.mayRereadStatus then 0 else latched ||| (~~~ w &&& 0x7000))
    | none => latchHolds rest (if call.mayRereadStatus then 0 else latched)

end Sys2Proof.Machine
end

