-- ==== Sys2Proof/Certificates/Slice0/Obligations.lean ====
section
/-! DEFINITION. The statements for the provers. Each docstring names the rule of spec/ it states; where a
statement rests on a choice of the model, it says so and names the assumption log. -/

open Sys2Proof Sys2Proof.Machine

/-! ### Reset, step, decoding -/

/-- R21: every cache slot `0x0000`, `CRC_ACC = 0xFF`, `SAFETY_LAST` without a value (the last two by the
spec's decisions D19 and D20). -/
def Obligations.ResetLeavesTheStatedValues : Prop :=
  (∀ i : RegIndex, State.reset.slot i = 0x0000) ∧ State.reset.crcAcc = 0xFF ∧
    State.reset.safetyLast = none

/-- The invariant of `EveryStepLeavesShapedRecordedOutputs` holds at reset. The outputs' reset value is
the model's choice (assumption log 4). -/
def Obligations.OutputsAreShapedAndRecordedAtReset : Prop :=
  State.reset.outs.Shaped ∧ State.reset.Recorded

/-- R170, R109, R175, R158 as an invariant of the machine: the outputs have the shape of R170, and an
error code finds in `SAFETY_LAST` and `CRC_ACC` what R170 says it records. -/
def Obligations.EveryStepLeavesShapedRecordedOutputs : Prop :=
  ∀ s t : State, s.outs.Shaped ∧ s.Recorded → step s = .next t → t.outs.Shaped ∧ t.Recorded

/-- R8, R38, R61: a step runs exactly the instruction the host's next invocation decodes to, on the
state with that invocation taken; with none offered it runs `NOP` (assumption logs 1 and 2). -/
def Obligations.StepRunsTheOfferedInstruction : Prop :=
  (∀ (s : State) (o : Offer) (rest : List Offer) (i : Instr),
    s.offers = o :: rest → decode o = .ok i → step s = exec i { s with offers := rest }) ∧
    (∀ s : State, s.offers = [] → step s = exec .nop s) ∧
    ∀ (s : State) (i : Instr), i.wellFormed = true → step (s.withOffer (encode i)) = exec i s

/-- R55: a step refuses exactly when the host offers, as a command word to run, a word whose five top
bits are neither `10000` nor `01010` (the model's refusal, assumption log 7). -/
def Obligations.OnlyUnknownCommandFormsAreRefused : Prop :=
  ∀ (s : State) (r : Refusal), step s = .refused r ↔
    ∃ (w : Word) (rest : List Offer), s.offers = .cmd16 w :: rest ∧ w.toNat / 2048 ≠ 16 ∧
      w.toNat / 2048 ≠ 10 ∧ r = .unknownCommandForm w

/-- Decode and encode agree, for every well-formed instruction and every value of its operands. -/
def Obligations.DecodeOfEncodeIsTheInstruction : Prop :=
  ∀ i : Instr, i.wellFormed = true → decode (encode i) = .ok i

/-- R50, R57, R62: no bit of a wire word is lost. A command word that decodes is encoded again to
itself, every word is a safety word and is encoded again to itself; and whatever decodes is well
formed. -/
def Obligations.WireWordsAreReadWhole : Prop :=
  (∀ (w : Word) (i : Instr), decode (.cmd16 w) = .ok i → encode i = .cmd16 w) ∧
    (∀ w : Word, ∃ i, decode (.safety16 w) = .ok i ∧ encode i = .safety16 w) ∧
    ∀ (o : Offer) (i : Instr), decode o = .ok i → i.wellFormed = true

/-- A few words written out from R50, R57, R60: selector codes with their ports, and wire words. -/
def Obligations.DecodingTheSpecsWords : Prop :=
  decode (.op5 { op := 0b00010, ri := 2, safe := true, len := 1 }) = .ok (.buildRd 2 false true 1) ∧
    decode (.op5 { op := 0b01001, b := 0x80 }) = .ok (.crcByte 0x80) ∧
    decode (.op5 { op := 0b10001, ri := 21 }) = .ok (.cacheRd 21) ∧
    decode (.op5 { op := 0b11000, raw := 0x1000 }) = .ok (.cnvAngle 0x1000) ∧
    decode (.op5 { op := 0b11111 }) = .ok .reserved1F ∧
    decode (.cmd16 0b1000000000100001) = .ok (.cmdRead false 0x02 1) ∧
    decode (.cmd16 0b0101000011110001) = .ok (.cmdWrite false 0x0F 1) ∧
    decode (.safety16 0b0111000001100111) = .ok (.safetyWord false true true true 0 0x67)

/-- R60, R66(a): exactly the ten listed codes are reserved, and code 0 is `NOP`. -/
def Obligations.ReservedSelectorCodesAreTheTen : Prop :=
  ∀ p : Ports, ∃ i, decode (.op5 p) = .ok i ∧
    (i.isReserved = true ↔
      p.op.toNat ∈ [0x06, 0x07, 0x0D, 0x0E, 0x0F, 0x16, 0x17, 0x1D, 0x1E, 0x1F]) ∧
    (i = .nop ↔ p.op = 0x00)

/-! ### Selector -/

/-- R61: `NOP` is code 0, has no operands, changes no state, returns `OK` with all other outputs zero,
and is what the idle selector runs. -/
def Obligations.NopChangesNoStateAndIsTheIdleOperation : Prop :=
  (∀ p : Ports, p.op = 0x00 → decode (.op5 p) = .ok .nop) ∧
    (∀ s : State, exec .nop s = .next { s with outs := {} }) ∧
    ∀ s : State, s.offers = [] → step s = .next { s with outs := {} }

/-- R66(a): each of the ten reserved codes changes no state and returns `ILLEGAL_OP` with all other
outputs zero. -/
def Obligations.ReservedCodesAnswerIllegalOp : Prop :=
  ∀ i ∈ ([.reserved06, .reserved07, .reserved0D, .reserved0E, .reserved0F, .reserved16, .reserved17,
    .reserved1D, .reserved1E, .reserved1F] : List Instr), ∀ s : State,
    exec i s = .next { s with outs := { st := .illegalOp } }

/-! ### Command Codec -/

/-- R81: `REGOFF`, with the column `addr` of R59 shifted into place. -/
def Obligations.RegoffReturnsTheMappedOffset : Prop :=
  (∀ p : Ports, p.op = 0x01 → decode (.op5 p) = .ok (.regoff p.ri)) ∧
    ∀ (ri : BitVec 5) (s : State),
      (ri.toNat ≤ 21 → exec (.regoff ri) s =
        .next { s with outs := { out := BitVec.ofNat 16 (16 * sensorAddress ri) } }) ∧
      (21 < ri.toNat → exec (.regoff ri) s = .next { s with outs := { st := .illegalOp } })

/-- R82: `BUILD_RD`, the fields of the word as a sum of their places, and the number of words to receive.
That `rxn` adds the operand `safe`, as the pseudocode has it, and not bit 0 of the built word, which
differs for `safe = 0` with an odd `len`, is the model's reading (DEDUCED, assumption log 26). -/
def Obligations.BuildReadComposesTheWord : Prop :=
  (∀ p : Ports, p.op = 0x02 → decode (.op5 p) = .ok (.buildRd p.ri p.upd p.safe p.len)) ∧
    ∀ (ri : BitVec 5) (upd safe : Bool) (len : BitVec 4) (s : State),
      (ri.toNat ≤ 21 → ∃ (word : Word) (rxn : BitVec 5),
        exec (.buildRd ri upd safe len) s = .next { s with outs := { out := word, rxn := rxn } } ∧
          word.toNat = 0x8000 + (if upd then 0x0400 else 0) + 16 * sensorAddress ri +
            (len ||| (if safe then 1 else 0)).toNat ∧
          rxn.toNat = (len ||| (if safe then 1 else 0)).toNat + (if safe then 1 else 0)) ∧
      (21 < ri.toNat →
        exec (.buildRd ri upd safe len) s = .next { s with outs := { st := .illegalOp } })

/-- R83: `BUILD_WR`. -/
def Obligations.BuildWriteComposesTheWord : Prop :=
  (∀ p : Ports, p.op = 0x03 → decode (.op5 p) = .ok (.buildWr p.ri p.safe)) ∧
    ∀ (ri : BitVec 5) (safe : Bool) (s : State),
      (ri.toNat ≤ 21 → ∃ word : Word,
        exec (.buildWr ri safe) s = .next { s with outs := { out := word } } ∧
          word.toNat = 0x5000 + 16 * sensorAddress ri + (if safe then 1 else 0)) ∧
      (21 < ri.toNat → exec (.buildWr ri safe) s = .next { s with outs := { st := .illegalOp } })

/-- R84: `DEC_CMD`, every field as a quotient and remainder of the word, the form, the inverse of the
address map, and the number of words to receive. -/
def Obligations.DecodeCommandReturnsTheFields : Prop :=
  (∀ p : Ports, p.op = 0x04 → decode (.op5 p) = .ok (.decCmd p.w)) ∧
    ∀ (w : Word) (s : State), ∃ (c : CmdFields) (rxn : BitVec 5),
      exec (.decCmd w) s = .next { s with outs := { fields := .cmd c, rxn := rxn } } ∧
        c.rw = decide (0x8000 ≤ w.toNat) ∧ c.cls.toNat = w.toNat / 2048 % 16 ∧
        c.upd = decide (w.toNat / 1024 % 2 = 1) ∧ c.addr.toNat = w.toNat / 16 % 64 ∧
        c.nd.toNat = w.toNat % 16 ∧ c.safe = decide (w.toNat % 2 = 1) ∧
        (c.kind = .read ↔ w.toNat / 2048 = 0b10000) ∧
        (c.kind = .write ↔ w.toNat / 2048 = 0b01010) ∧
        (c.riValid = true ↔ c.addr.toNat ∈ sensorAddresses) ∧
        (c.riValid = true → sensorAddresses[c.ri.toNat]? = some c.addr.toNat) ∧
        (c.riValid = false → c.ri = 0) ∧
        rxn.toNat = (match c.kind with
          | .read => c.nd.toNat + c.safe.toNat
          | .write => c.safe.toNat
          | .other => 0)

/-- R85: `DEC_SAFE`, every field as a quotient and remainder of the word; nothing is written. -/
def Obligations.DecodeSafetyReturnsTheFields : Prop :=
  (∀ p : Ports, p.op = 0x05 → decode (.op5 p) = .ok (.decSafe p.w)) ∧
    ∀ (w : Word) (s : State), ∃ f : SafetyFields,
      exec (.decSafe w) s = .next { s with outs := { fields := .safety f } } ∧
        f.noReset = decide (w.toNat / 32768 = 1) ∧
        f.noSysErr = decide (w.toNat / 16384 % 2 = 1) ∧
        f.noIfErr = decide (w.toNat / 8192 % 2 = 1) ∧
        f.validAngle = decide (w.toNat / 4096 % 2 = 1) ∧
        f.slaveId.toNat = w.toNat / 256 % 16 ∧ f.crc.toNat = w.toNat % 256

/-- R50, R55, R57: offered as instructions, the wire words `CMD.READ`, `CMD.WRITE` and `SAFETY_WORD`
drive their decoded fields and change nothing else. That this is their meaning is the model's choice
(assumption log 5). -/
def Obligations.WireWordRowsDriveTheirFields : Prop :=
  (∀ (upd : Bool) (addr : BitVec 6) (nd : BitVec 4) (s : State), ∃ (c : CmdFields) (rxn : BitVec 5),
    exec (.cmdRead upd addr nd) s = .next { s with outs := { fields := .cmd c, rxn := rxn } } ∧
      c.rw = true ∧ c.cls = 0b0000 ∧ c.upd = upd ∧ c.addr = addr ∧ c.nd = nd ∧ c.safe = nd[0] ∧
      c.kind = .read ∧ (c.riValid = true ↔ addr.toNat ∈ sensorAddresses) ∧
      (c.riValid = true → sensorAddresses[c.ri.toNat]? = some addr.toNat) ∧
      (c.riValid = false → c.ri = 0) ∧
      rxn.toNat = nd.toNat + nd[0].toNat) ∧
    (∀ (upd : Bool) (addr : BitVec 6) (nd : BitVec 4) (s : State),
      ∃ (c : CmdFields) (rxn : BitVec 5),
      exec (.cmdWrite upd addr nd) s = .next { s with outs := { fields := .cmd c, rxn := rxn } } ∧
        c.rw = false ∧ c.cls = 0b1010 ∧ c.upd = upd ∧ c.addr = addr ∧ c.nd = nd ∧ c.safe = nd[0] ∧
        c.kind = .write ∧ (c.riValid = true ↔ addr.toNat ∈ sensorAddresses) ∧
        (c.riValid = true → sensorAddresses[c.ri.toNat]? = some addr.toNat) ∧
        (c.riValid = false → c.ri = 0) ∧
        rxn.toNat = nd[0].toNat) ∧
    ∀ (noReset noSysErr noIfErr validAngle : Bool) (slaveId : BitVec 4) (crc : Byte) (s : State),
      exec (.safetyWord noReset noSysErr noIfErr validAngle slaveId crc) s =
        .next { s with outs :=
          { fields := .safety ⟨noReset, noSysErr, noIfErr, validAngle, slaveId, crc⟩ } }

/-- R86(a), (c) as the operation rules R82 and R84 give them: decoding a built read recovers its parts.
The decoded safety flag is bit 0 of the built nibble, `safe` or bit 0 of `len` (assumption log
25). -/
def Obligations.DecodingABuiltReadRecoversItsParts : Prop :=
  ∀ (ri : BitVec 5) (upd safe : Bool) (len : BitVec 4) (s : State), ri.toNat ≤ 21 →
    ∃ (t u : State) (c : CmdFields), exec (.buildRd ri upd safe len) s = .next t ∧
      exec (.decCmd t.outs.out) t = .next u ∧ u.outs.fields = .cmd c ∧ c.kind = .read ∧
      c.upd = upd ∧ c.addr.toNat = sensorAddress ri ∧ c.riValid = true ∧ c.ri = ri ∧
      c.nd = len ||| (if safe then 1 else 0) ∧ c.safe = (safe || len[0])

/-- R86(a) in its own words, "and `safe` as given". It fails for `safe = 0` with an odd `len`, where R82
puts a 1 in bit 0 of the word (assumption log 25). -/
def Obligations.DecodedSafetyFlagIsTheOneGiven : Prop :=
  ∀ (ri : BitVec 5) (upd safe : Bool) (len : BitVec 4) (s : State), ri.toNat ≤ 21 →
    ∃ (t u : State) (c : CmdFields), exec (.buildRd ri upd safe len) s = .next t ∧
      exec (.decCmd t.outs.out) t = .next u ∧ u.outs.fields = .cmd c ∧ c.kind = .read ∧
      c.upd = upd ∧ c.addr.toNat = sensorAddress ri ∧ c.riValid = true ∧ c.ri = ri ∧
      c.nd = len ||| (if safe then 1 else 0) ∧ c.safe = safe

/-- R86(b), (c), (d): decoding a built write recovers its parts; with the safety flag an even length
and the next odd one build the same word. -/
def Obligations.BuiltWritesDecodeAndEvenLengthsRoundUp : Prop :=
  (∀ (ri : BitVec 5) (safe : Bool) (s : State), ri.toNat ≤ 21 →
    ∃ (t u : State) (c : CmdFields), exec (.buildWr ri safe) s = .next t ∧
      exec (.decCmd t.outs.out) t = .next u ∧ u.outs.fields = .cmd c ∧ c.kind = .write ∧
      c.upd = false ∧ c.riValid = true ∧ c.ri = ri ∧ c.nd.toNat = safe.toNat) ∧
    ∀ (ri : BitVec 5) (upd : Bool) (len : BitVec 4) (s : State),
      exec (.buildRd ri upd true len) s = exec (.buildRd ri upd true (len ||| 1)) s

/-! ### Safety Validator -/

/-- R101, R103, R104, R106, R107: the four streaming operations, the CRC step on plain numbers. -/
def Obligations.StreamingOperationsFollowTheRounds : Prop :=
  (∀ p : Ports, (p.op = 0x08 → decode (.op5 p) = .ok .crcInit) ∧
    (p.op = 0x09 → decode (.op5 p) = .ok (.crcByte p.b)) ∧
    (p.op = 0x0A → decode (.op5 p) = .ok (.crcWord p.w)) ∧
    (p.op = 0x0B → decode (.op5 p) = .ok .crcRead)) ∧
    (∀ acc b : Byte, (crcStep acc b).toNat = crcStepNat acc.toNat b.toNat) ∧
    ∀ (s : State) (b : Byte) (w : Word),
      exec .crcInit s = .next { s with crcAcc := 0xFF, outs := {} } ∧
      exec (.crcByte b) s = .next
        { s with crcAcc := BitVec.ofNat 8 (crcStepNat s.crcAcc.toNat b.toNat), outs := {} } ∧
      exec (.crcWord w) s = .next
        { s with crcAcc := BitVec.ofNat 8 (crcWordNat s.crcAcc.toNat w.toNat), outs := {} } ∧
      exec .crcRead s = .next { s with outs := { out := BitVec.ofNat 16 (255 - s.crcAcc.toNat) } }

/-- R112 (marked derived by the spec): the step is linear, the CRC affine on equal lengths, and a
change of a single bit of any input byte always changes the CRC. -/
def Obligations.CrcIsLinearAndSeesEverySingleBit : Prop :=
  (∀ a a' b b' : Byte, crcStep (a ^^^ a') (b ^^^ b') = crcStep a b ^^^ crcStep a' b') ∧
    crcStep 0 0 = 0 ∧
    (∀ x y z : List Byte, x.length = y.length → y.length = z.length →
      crc8 x ^^^ crc8 y ^^^ crc8 z = crc8 (xorBytes (xorBytes x y) z)) ∧
    ∀ (pre post : List Byte) (b : Byte) (j : Nat), j < 8 →
      crc8 (pre ++ (b ^^^ (1 <<< j)) :: post) ≠ crc8 (pre ++ b :: post)

/-- R110 (marked derived by the spec): streaming a transaction gives the one-shot CRC and the
accumulator `CHECK` leaves when it reaches its step 4. -/
def Obligations.StreamingAgreesWithOneShot : Prop :=
  ∀ (cmd : Word) (pl : List Word) (s : State),
    (∃ u, exec .crcRead (runOperations (streamTransaction cmd pl) s) = .next u ∧
      u.outs.out.toNat = (crc8 (txBytes cmd pl)).toNat) ∧
    ∀ w : Word, w[14] = true → w[13] = true → w[12] = true →
      ∃ t, exec (.check w cmd pl) s = .next t ∧
        t.crcAcc = (runOperations (streamTransaction cmd pl) s).crcAcc

/-- R68: the pseudo-operation `CRC8` returns the CRC of its bytes, and `CRC_WORD` is its two
`CRC_BYTE`. -/
def Obligations.PseudoOperationsExpandAsSaid : Prop :=
  (∀ (bs : List Byte) (s : State),
    (runOperations (pseudoCrc8 bs) s).outs.out.toNat = (crc8 bs).toNat) ∧
    ∀ (w : Word) (s : State),
      exec (.crcWord w) s = .next (runOperations (pseudoCrcWord w) s)

/-- R108, R109 (with R105's byte order): `CHECK`, the three status bits in order, then the CRC;
`SAFETY_LAST` always, `CRC_ACC` only when the CRC is computed; `reset_req` for two codes. -/
def Obligations.CheckFollowsItsOrderedTests : Prop :=
  (∀ p : Ports, p.op = 0x0C →
    ∃ pl, decode (.op5 p) = .ok (.check p.w p.cmd pl) ∧ pl.length = p.pn.toNat) ∧
    ∀ (w cmd : Word) (pl : List Word) (s : State), pl.length ≤ 15 →
      let acc := (cmd :: pl).foldl (fun a x => crcWordNat a x.toNat) 0xFF
      let st : ResultCode :=
        if w[14] = false then .systemError
        else if w[13] = false then .interfaceAccessError
        else if w[12] = false then .invalidAngleError
        else if 255 - acc = w.toNat % 256 then .ok else .crcError
      exec (.check w cmd pl) s = .next
        { s with
          safetyLast := some w
          crcAcc := if st = .ok ∨ st = .crcError then BitVec.ofNat 8 acc else s.crcAcc
          outs := { st := st, resetReq := decide (st = .systemError ∨ st = .crcError) } }

/-- R111 (marked derived by the spec): with the three status bits 1, `CHECK` accepts exactly the
safety word whose low byte is the CRC of the transaction, whatever the state was. -/
def Obligations.CheckAcceptsExactlyTheRightCrc : Prop :=
  ∀ (w cmd : Word) (pl : List Word) (s : State),
    w[14] = true → w[13] = true → w[12] = true →
      ∃ t, exec (.check w cmd pl) s = .next t ∧
        (t.outs.st = .ok ↔ lo8 w = crc8 (txBytes cmd pl)) ∧
        (lo8 w ≠ crc8 (txBytes cmd pl) → t.outs.st = .crcError)

/-- R108(b), R173: bits 15 and 11:8 of the safety word do not matter to the result, nor does the state
the check starts from. -/
def Obligations.CheckIgnoresTheUnexaminedBits : Prop :=
  ∀ (w w' cmd : Word) (pl : List Word) (s s' : State),
    w &&& 0x70FF = w' &&& 0x70FF → ∃ t t', exec (.check w cmd pl) s = .next t ∧
      exec (.check w' cmd pl) s' = .next t' ∧ t.outs = t'.outs ∧
      (w[14] = true → w[13] = true → w[12] = true → t.crcAcc = t'.crcAcc)

/-! ### Register Model -/

/-- R122, R125: `CACHE_WR` stores the whole word in its slot and nowhere else, `CACHE_RD` returns the
slot and changes nothing; both answer `ILLEGAL_OP` above 21. -/
def Obligations.CacheWritesOneSlotAndReadsItBack : Prop :=
  (∀ p : Ports, (p.op = 0x10 → decode (.op5 p) = .ok (.cacheWr p.ri p.w)) ∧
    (p.op = 0x11 → decode (.op5 p) = .ok (.cacheRd p.ri))) ∧
    (∀ (k : RegIndex) (ri : BitVec 5) (w : Word) (s : State), ri.toNat = k.val →
      (∃ t, exec (.cacheWr ri w) s = .next t ∧ s.SameBesideCache t ∧ t.outs = {} ∧
        t.slot k = w ∧ ∀ j : RegIndex, j ≠ k → t.slot j = s.slot j) ∧
      exec (.cacheRd ri) s = .next { s with outs := { out := s.slot k } }) ∧
    ∀ (ri : BitVec 5) (w : Word) (s : State), 21 < ri.toNat →
      exec (.cacheWr ri w) s = .next { s with outs := { st := .illegalOp } } ∧
        exec (.cacheRd ri) s = .next { s with outs := { st := .illegalOp } }

/-- R123: `FLD_CHK` and the access predicates. -/
def Obligations.FieldCheckEvaluatesTheRights : Prop :=
  (∀ p : Ports, p.op = 0x15 → ∃ d, decode (.op5 p) = .ok (.fldChk d p.wr)) ∧
    ∀ (d : Descriptor) (wr : Bool) (s : State),
      (21 < d.reg.toNat → exec (.fldChk d wr) s = .next { s with outs := { st := .illegalOp } }) ∧
      (d.reg.toNat ≤ 21 → (d.acc.res = true ∨ (if wr then d.acc.w else d.acc.r) = false) →
        exec (.fldChk d wr) s = .next { s with outs := { st := .accessDenied } }) ∧
      (d.reg.toNat ≤ 21 → d.acc.res = false → (if wr then d.acc.w else d.acc.r) = true →
        exec (.fldChk d wr) s = .next { s with outs :=
          { needTrigger := (wr = false && d.acc.u)
            inCrcBlock := decide (8 ≤ d.reg.toNat ∧ d.reg.toNat ≤ 15) } })

/-- R124: `FLD_GET`, bit by bit: the raw word is cached, the field is its masked bits brought down. -/
def Obligations.FieldGetCachesAndExtracts : Prop :=
  (∀ p : Ports, p.op = 0x12 → ∃ d, decode (.op5 p) = .ok (.fldGet d p.raw)) ∧
    ∀ (d : Descriptor) (raw : Word) (s : State),
      (21 < d.reg.toNat → exec (.fldGet d raw) s = .next { s with outs := { st := .illegalOp } }) ∧
      (d.reg.toNat ≤ 21 → (d.acc.res = true ∨ d.acc.r = false) →
        exec (.fldGet d raw) s = .next { s with outs := { st := .accessDenied } }) ∧
      ∀ k : RegIndex, d.reg.toNat = k.val → d.acc.res = false → d.acc.r = true →
        ∃ t value, exec (.fldGet d raw) s = .next t ∧ s.SameBesideCache t ∧
          t.outs = { out := value } ∧ t.slot k = raw ∧
          (∀ j : RegIndex, j ≠ k → t.slot j = s.slot j) ∧
          ∀ j : Nat, value.getLsbD j =
            (raw.getLsbD (j + d.pos.toNat) && d.mask.getLsbD (j + d.pos.toNat))

/-- R126: `FLD_SET`, bit by bit: inside the mask the value's bits, outside it the cached ones;
stored and returned. -/
def Obligations.FieldSetInsertsIntoTheCachedWord : Prop :=
  (∀ p : Ports, p.op = 0x13 → ∃ d, decode (.op5 p) = .ok (.fldSet d p.v)) ∧
    ∀ (d : Descriptor) (v : Word) (s : State),
      (21 < d.reg.toNat → exec (.fldSet d v) s = .next { s with outs := { st := .illegalOp } }) ∧
      (d.reg.toNat ≤ 21 → (d.acc.res = true ∨ d.acc.w = false) →
        exec (.fldSet d v) s = .next { s with outs := { st := .accessDenied } }) ∧
      ∀ k : RegIndex, d.reg.toNat = k.val → d.acc.res = false → d.acc.w = true →
        ∃ t new, exec (.fldSet d v) s = .next t ∧ s.SameBesideCache t ∧
          t.outs = { out := new, inCrcBlock := decide (8 ≤ k.val ∧ k.val ≤ 15) } ∧
          t.slot k = new ∧ (∀ j : RegIndex, j ≠ k → t.slot j = s.slot j) ∧
          ∀ j : Nat, j < 16 → new.getLsbD j =
            if d.mask.getLsbD j then decide (d.pos.toNat ≤ j) && v.getLsbD (j - d.pos.toNat)
            else (s.slot k).getLsbD j

/-- R129 (marked derived by the spec): the bit-field round trip, for every well-formed descriptor
that is readable and writable. -/
def Obligations.BitFieldRoundTrip : Prop :=
  ∀ (d : Descriptor) (v : Word) (s s' : State), d.WellFormed → d.acc.res = false →
    d.acc.r = true → d.acc.w = true →
    ∃ t u, exec (.fldSet d v) s = .next t ∧ t.outs.st = .ok ∧
      exec (.fldGet d t.outs.out) s' = .next u ∧ u.outs.st = .ok ∧
      u.outs.out = v &&& (d.mask >>> d.pos.toNat) ∧
      ∀ k : RegIndex, d.reg.toNat = k.val →
        t.outs.out &&& ~~~d.mask = s.slot k &&& ~~~d.mask

/-- R127: `BLOCK_CRC`: the CRC of slots 8 to 14 and the high byte of slot 15 becomes the low byte of
slot 15, is returned with its high byte, and its accumulator stays in `CRC_ACC`. -/
def Obligations.BlockCrcWritesTheLowByteOfSlot15 : Prop :=
  (∀ p : Ports, p.op = 0x14 → decode (.op5 p) = .ok .blockCrc) ∧
    ∀ s : State, ∃ t, exec .blockCrc s = .next t ∧
      let crc := (crc8 [hi8 (s.slot 8), lo8 (s.slot 8), hi8 (s.slot 9), lo8 (s.slot 9),
        hi8 (s.slot 10), lo8 (s.slot 10), hi8 (s.slot 11), lo8 (s.slot 11), hi8 (s.slot 12),
        lo8 (s.slot 12), hi8 (s.slot 13), lo8 (s.slot 13), hi8 (s.slot 14), lo8 (s.slot 14),
        hi8 (s.slot 15)]).toNat
      (t.slot 15).toNat = (s.slot 15).toNat / 256 * 256 + crc ∧ t.crcAcc.toNat = 255 - crc ∧
        t.outs = { out := t.slot 15 } ∧ (∀ j : RegIndex, j ≠ 15 → t.slot j = s.slot j) ∧
        t.safetyLast = s.safetyLast ∧ t.offers = s.offers

/-- R127(a), (b), R128 (marked derived by the spec): after `BLOCK_CRC` the invariant of the
CRC-protected block holds on the cache; a second `BLOCK_CRC` changes nothing; the old low byte of
slot 15 is no input. -/
def Obligations.BlockCrcEstablishesTheBlockInvariant : Prop :=
  (∀ s : State, ∃ t, exec .blockCrc s = .next t ∧ t.BlockCrcHolds ∧ exec .blockCrc t = .next t) ∧
    ∀ s s' : State, (∀ k : RegIndex, k ≠ 15 → s.slot k = s'.slot k) →
      hi8 (s.slot 15) = hi8 (s'.slot 15) → ∃ t t', exec .blockCrc s = .next t ∧
        exec .blockCrc s' = .next t' ∧ t.outs = t'.outs ∧ t.crcAcc = t'.crcAcc

/-- spec/95_test_vectors.md 2.4: when the eight words of a block whose CRC byte is right are absorbed
after anything, the accumulator reached does not depend on the block's contents. -/
def Obligations.GoodBlockLeavesAFixedResidue : Prop :=
  ∀ (s s' : State) (acc : Byte), s.BlockCrcHolds → s'.BlockCrcHolds →
    crcAbsorb acc (s.blockBytes ++ [lo8 (s.slot 15)]) =
      crcAbsorb acc (s'.blockBytes ++ [lo8 (s'.slot 15)])

/-! ### Conversion Engine -/

/-- R152: `CNV_ANGLE`: the signed 15-bit reading of bits 14:0 as a remainder, `si * 45 / 4096` degrees,
below 180 and not below -180. -/
def Obligations.AngleConversion : Prop :=
  (∀ p : Ports, p.op = 0x18 → decode (.op5 p) = .ok (.cnvAngle p.raw)) ∧
    ∀ (raw : Word) (s : State),
      let si : Int := ((raw.toNat + 16384) % 32768 : Nat) - 16384
      let q : Rat := (si : Rat) * 45 / 4096
      exec (.cnvAngle raw) s = .next { s with outs := { si := si, q := Config.num (.finite q) } } ∧
        -180 ≤ q ∧ q < 180

/-- R153: `CNV_REVOL`: the signed 9-bit reading of bits 8:0, and its 16-bit pattern. -/
def Obligations.RevolutionCountConversion : Prop :=
  (∀ p : Ports, p.op = 0x19 → decode (.op5 p) = .ok (.cnvRevol p.raw)) ∧
    ∀ (raw : Word) (s : State),
      let si : Int := ((raw.toNat + 256) % 512 : Nat) - 256
      ∃ out : Word, exec (.cnvRevol raw) s = .next { s with outs := { si := si, out := out } } ∧
        out.toInt = si

/-- R154: `CNV_TEMP`: `(si + 152) * 125 / 347` degrees Celsius. -/
def Obligations.TemperatureConversion : Prop :=
  (∀ p : Ports, p.op = 0x1A → decode (.op5 p) = .ok (.cnvTemp p.raw)) ∧
    ∀ (raw : Word) (s : State),
      let si : Int := ((raw.toNat + 256) % 512 : Nat) - 256
      exec (.cnvTemp raw) s = .next { s with outs :=
        { si := si, q := Config.num (.finite (((si : Rat) + 152) * 125 / 347)) } }

/-- R155: `CNV_RANGE`: `46080 / v` degrees, and `POS_INF` for `v = 0`, still `OK`. That the port `si` is
zero, for which R155 returns nothing, is the model's reading (DEDUCED, assumption log 28). -/
def Obligations.AngleRangeConversion : Prop :=
  (∀ p : Ports, p.op = 0x1B → decode (.op5 p) = .ok (.cnvRange p.v)) ∧
    ∀ (v : Word) (s : State),
      (v ≠ 0 → exec (.cnvRange v) s = .next { s with outs :=
        { q := Config.num (.finite (46080 / (v.toNat : Rat))) } }) ∧
      (v = 0 → ∃ q, exec (.cnvRange v) s = .next { s with outs := { qc := .posInf, q := q } })

/-- R151, R156, R157: `CNV_SPEED` completes on every operand with the value or the class of the formula. With
a finite range and `fir_mode` 0 to 3 it is the rational of the formula; with `fir_mode` above 3 the
zero divisor gives an infinity of the dividend's sign or `NAN`; an infinite range times the raw speed
is an infinity of the product's sign, or `NAN` for zero; `NAN` stays. The clauses for a `NEG_INF`
range, and an infinity over the zero divisor, are the model's reading of R151 (DEDUCED, assumption
log 11). -/
def Obligations.SpeedConversion : Prop :=
  (∀ p : Ports, p.op = 0x1C → decode (.op5 p) = .ok (.cnvSpeed p.rng p.raw p.v p.pred)) ∧
    ∀ (rng : Quantity) (raw v : Word) (pred : Bool) (s : State),
      let si : Int := ((raw.toNat + 16384) % 32768 : Nat) - 16384
      let p : Rat := if pred then 3 else 2
      let T : Rat := ([213 / 10, 427 / 10, 853 / 10, 1706 / 10] : List Rat).getD v.toNat 0
      ∃ (qc : QClass) (q : Quantity),
        exec (.cnvSpeed rng raw v pred) s = .next { s with outs := { si := si, qc := qc, q := q } } ∧
          (∀ r : Rat, rng = .finite r → v.toNat ≤ 3 → qc = .finite ∧
            q = Config.num (.finite (r * (si : Rat) * 1000000 / (32768 * p * T)))) ∧
          (∀ r : Rat, rng = .finite r → 3 < v.toNat →
            (0 < r * (si : Rat) → qc = .posInf) ∧ (r * (si : Rat) < 0 → qc = .negInf) ∧
              (r * (si : Rat) = 0 → qc = .nan)) ∧
          (rng = .posInf →
            (0 < si → qc = .posInf) ∧ (si < 0 → qc = .negInf) ∧ (si = 0 → qc = .nan)) ∧
          (rng = .negInf →
            (0 < si → qc = .negInf) ∧ (si < 0 → qc = .posInf) ∧ (si = 0 → qc = .nan)) ∧
          (rng = .nan → qc = .nan)

/-- R152(d), R160: every angle is exact in binary64, so the document's own formula computes the
reference value. -/
def Obligations.AngleIsExactInBinary64 : Prop :=
  ∀ raw : Word, angleBinary64 raw = angleDegrees raw

/-! ### Rules about the whole block -/

/-- R11, R13, R15: only the operations the rules name write a cache slot, `CRC_ACC`, `SAFETY_LAST`; no
operation touches what the host is still to invoke. -/
def Obligations.OnlyTheNamedOperationsWrite : Prop :=
  ∀ (i : Instr) (s t : State), exec i s = .next t →
    (∀ k : RegIndex, i.writesSlot k = false → t.slot k = s.slot k) ∧
      (i.writesCrcAcc = false → t.crcAcc = s.crcAcc) ∧
      (i.writesSafetyLast = false → t.safetyLast = s.safetyLast) ∧ t.offers = s.offers

/-- R178, R180: an invocation that ends in `AccessDenied` or `ILLEGAL_OP` writes nothing; all
outputs but the code are zero. -/
def Obligations.DeniedAndIllegalInvocationsWriteNothing : Prop :=
  ∀ (i : Instr) (s t : State), exec i s = .next t →
    t.outs.st = .accessDenied ∨ t.outs.st = .illegalOp →
      t = { s with outs := { st := t.outs.st } }

/-- R170, R175, R180, R185(b): which operation raises which code. -/
def Obligations.EachCodeComesFromItsOperations : Prop :=
  ∀ (i : Instr) (s t : State), exec i s = .next t →
    (t.outs.st = .illegalOp ↔
      i.isReserved = true ∨ ∃ ri, i.indexOperand = some ri ∧ 21 < ri.toNat) ∧
    (t.outs.st = .accessDenied ↔
      ∃ d : Descriptor, d.reg.toNat ≤ 21 ∧
        ((∃ raw, i = .fldGet d raw ∧ d.readable = false) ∨
          (∃ v, i = .fldSet d v ∧ d.writable = false) ∨
          (i = .fldChk d false ∧ d.readable = false) ∨
          (i = .fldChk d true ∧ d.writable = false))) ∧
    (t.outs.st ∈ [.systemError, .interfaceAccessError, .invalidAngleError, .crcError] →
      ∃ w cmd pl, i = .check w cmd pl) ∧
    t.outs.st ≠ .transportError

/-- R15, R17, R208: no operation reads the outputs or `SAFETY_LAST`: results depend on the cache and
`CRC_ACC` alone; no output of any `CHECK` depends on the state at all; and neither `BLOCK_CRC` nor a
`CHECK` that reaches its CRC reads `CRC_ACC` (one that does not leaves it as it is). (The output
record is the model's own field, assumption log 3.) -/
def Obligations.ResultsDependOnCacheAndAccumulatorOnly : Prop :=
  (∀ (i : Instr) (s s' t t' : State), s.regcache = s'.regcache → s.crcAcc = s'.crcAcc →
    exec i s = .next t → exec i s' = .next t' →
      t.regcache = t'.regcache ∧ t.crcAcc = t'.crcAcc ∧ t.outs = t'.outs) ∧
    (∀ (w cmd : Word) (pl : List Word) (s s' t t' : State),
      exec (.check w cmd pl) s = .next t → exec (.check w cmd pl) s' = .next t' →
        t.outs = t'.outs) ∧
    ∀ (i : Instr) (s s' t t' : State), s.regcache = s'.regcache →
      (i = .blockCrc ∨ ∃ w cmd pl, i = .check w cmd pl ∧ w &&& 0x7000 = 0x7000) →
      exec i s = .next t → exec i s' = .next t' →
        t.regcache = t'.regcache ∧ t.crcAcc = t'.crcAcc ∧ t.outs = t'.outs

/-- R15, R200: nothing clears `SAFETY_LAST`: along a run of any length, once a safety word is kept,
one is kept. -/
def Obligations.SafetyLastIsNeverCleared : Prop :=
  ∀ (n : Nat) (s t : State), Host.Core.run Sys2Proof.core n s = .next t →
    s.safetyLast.isSome = true → t.safetyLast.isSome = true

/-- R11, R45: along a run of any length, a cache slot that no offered operation may write keeps its
value: nothing else refreshes it. -/
def Obligations.UntouchedSlotSurvivesARun : Prop :=
  ∀ (n : Nat) (s t : State) (k : RegIndex),
    (∀ o ∈ s.offers, ∀ i, decode o = .ok i → i.writesSlot k = false) →
    Host.Core.run Sys2Proof.core n s = .next t → t.slot k = s.slot k

/-! ### Host sequences -/

/-- R130 step 1, R131 step 1, R180: an access that is denied makes no trigger and no exchange and leaves
the block and the Facade as they were. That the denied read then returns the value zero is the model's
choice (DEDUCED, assumption log 24). -/
def Obligations.DeniedFieldAccessMakesNoExchange : Prop :=
  ∀ (p : HostParams) (d : Descriptor) (v : Word) (f : Facade), f.usable = true →
    d.reg.toNat ≤ 21 →
    (d.readable = false → getBitField p d f = .done .accessDenied 0 f) ∧
      (d.writable = false → setBitField p d v f = .done .accessDenied () f)

/-- R130: `get_bit_field` on a readable descriptor, in `Ready`, with a Transport Port that succeeds
and a safety word `CHECK` accepts: the trigger exactly when the descriptor asks for it, one read
with the update flag then and the safety flag always, the field returned and the raw word cached. -/
def Obligations.FieldReadReturnsTheField : Prop :=
  ∀ (p : HostParams) (d : Descriptor) (f : Facade) (k : RegIndex) (x w cmd : Word)
    (ack : List Word) (rest : List Answer),
    f.life = .ready → d.reg.toNat = k.val → d.readable = true →
    f.answers = (if d.acc.u then [.success ack] else []) ++ .success [x, w] :: rest →
    cmd.toNat = 0x8001 + (if d.acc.u then 0x0400 else 0) + 16 * sensorAddress d.reg →
    w &&& 0x7000 = 0x7000 → lo8 w = crc8 (txBytes cmd [x]) →
    ∃ g, getBitField p d f = .done .ok (d.extract x) g ∧ g.block.slot k = x ∧
      (∀ j : RegIndex, j ≠ k → g.block.slot j = f.block.slot j) ∧
      g.block.safetyLast = some w ∧ g.life = .ready ∧ g.answers = rest ∧
      g.wire = f.wire ++ (if d.acc.u then [.trigger true] else []) ++
        [.exchange [cmd] (some [x, w])]

/-- R130 step 5, D13: a field read that ends in any code but `OK` caches nothing. That it then returns the
value zero is the model's choice (assumption log 24). -/
def Obligations.FailedFieldReadCachesNothing : Prop :=
  ∀ (p : HostParams) (d : Descriptor) (f g : Facade) (st : ResultCode) (val : Word),
    getBitField p d f = .done st val g → st ≠ .ok →
      g.block.regcache = f.block.regcache ∧ val = 0

/-- R177, R183: `reset_safety` is a trigger and one dummy read; it succeeds iff both calls succeed, a
failing one ends it with `TransportError` and the lifecycle as it was; it leaves the block as it was
and makes the Facade `Ready`. -/
def Obligations.ResetSafetyTouchesNoBlockState : Prop :=
  (∀ (p : HostParams) (f : Facade) (a rx : List Word) (rest : List Answer), f.usable = true →
    f.answers = .success a :: .success rx :: rest →
      ∃ g words, resetSafety p f = .done .ok () g ∧ g.block = f.block ∧ g.life = .ready ∧
        g.wire = f.wire ++ [.trigger true, .exchange [p.resetSafetyCmd] (some words)]) ∧
    (∀ (p : HostParams) (f : Facade) (rest : List Answer), f.usable = true →
      f.answers = .failure :: rest →
        ∃ g, resetSafety p f = .done .transportError () g ∧ g.block = f.block ∧
          g.life = f.life ∧ g.answers = rest ∧ g.wire = f.wire ++ [.trigger false]) ∧
    (∀ (p : HostParams) (f : Facade) (a : List Word) (rest : List Answer), f.usable = true →
      f.answers = .success a :: .failure :: rest →
        ∃ g, resetSafety p f = .done .transportError () g ∧ g.block = f.block ∧
          g.life = f.life ∧ g.answers = rest ∧
          g.wire = f.wire ++ [.trigger true, .exchange [p.resetSafetyCmd] none]) ∧
    ∀ (p : HostParams) (f g : Facade) (st : ResultCode), resetSafety p f = .done st () g →
      g.block = f.block ∧ (st = .ok ∨ st = .transportError ∧ g.life = f.life)

/-- R178, R210: a host in `Faulted` that reads a register pulses the trigger first, and if the read
succeeds it made the dummy read of `reset_safety` and then the one read of R132 (that the duty is paid
just there: assumption log 15). -/
def Obligations.FaultedHostResetsBeforeItsRead : Prop :=
  ∀ (p : HostParams) (ri : RegIndex) (upd : Bool) (f g : Facade) (st : ResultCode) (x : Word),
    f.life = .faulted → readRegister p ri upd f = .done st x g →
      ∃ b more, g.wire = f.wire ++ .trigger b :: more ∧
        (st = .ok → b = true ∧ ∃ (words : List Word) (cmd w : Word),
          cmd.toNat = 0x8001 + (if upd then 0x0400 else 0) + 16 * sensorAddress ri.toPort ∧
          more = [.exchange [p.resetSafetyCmd] (some words), .exchange [cmd] (some [x, w])])

/-- R128, R134 and the document's property E5: whenever `regenerate_crc` returns `OK`, the CRC byte in the
cache is the `crc8` of the other 15 bytes of the block; and in the unbounded reading of `REGEN_RETRY`
it returns `OK` only once the status read last, now in slot 0, says no write is pending. -/
def Obligations.RegenerationLeavesTheBlockInvariant : Prop :=
  ∀ (p : HostParams) (f g : Facade), regenerateCrc p f = .done .ok () g →
    g.block.BlockCrcHolds ∧ (p.regenRetry = none → p.writePending (g.block.slot 0) = false)

/-- R133: `read_register_map` that returns `OK` has written every one of the 22 slots: each holds the word
that one of the four reads, made in this run, was answered with for its address. (Parameters whose
reads reach the whole map, as R133's postcondition asks of `REGMAP_CMDS`.) -/
def Obligations.RegisterMapFillsEverySlot : Prop :=
  ∀ (p : HostParams) (f g : Facade), p.WellFormed → readRegisterMap p f = .done .ok () g →
    ∃ made : List WireCall, g.wire = f.wire ++ made ∧
      ∀ k : RegIndex, ∃ (cmd : Word) (rx : List Word) (j : Nat), cmd ∈ p.regmapCmds.toList ∧
        .exchange [cmd] (some rx) ∈ made ∧ j < (commandFields cmd).nd.toNat ∧
        (commandFields cmd).addr.toNat + j = sensorAddress k.toPort ∧
        rx[j]? = some (g.block.slot k)

/-- R126, R131, R207: outside the CRC-protected block, whatever code `set_bit_field` returns after its
access test, the slot holds the new value: it is not rolled back. -/
def Obligations.FailedWriteKeepsTheInsertedField : Prop :=
  ∀ (p : HostParams) (d : Descriptor) (v : Word) (f g : Facade) (st : ResultCode) (k : RegIndex),
    f.usable = true → d.reg.toNat = k.val → ¬ (8 ≤ k.val ∧ k.val ≤ 15) → d.writable = true →
    setBitField p d v f = .done st () g →
      g.block.slot k = d.insert (f.block.slot k) v ∧
        ∀ j : RegIndex, j ≠ k → g.block.slot j = f.block.slot j

/-- R175, R183: a Transport call that fails ends the read of a register with `TransportError`, whichever of
its calls it is: no cache slot, not `CRC_ACC` and not `SAFETY_LAST` changes, and no further call is
made. In `Faulted` the calls are the two of `reset_safety` and then the read; a failure of the first two
leaves `Faulted`, a failure of the read comes after the reset has led to `Ready`. That a failing reset
ends the read is the model's reading (DEDUCED, assumption log 15), and so is the value zero (DEDUCED,
assumption log 24). -/
def Obligations.TransportFailureEndsTheRead : Prop :=
  (∀ (p : HostParams) (ri : RegIndex) (upd : Bool) (f : Facade) (rest : List Answer),
    f.usable = true → f.answers = .failure :: rest →
      ∃ g call, readRegister p ri upd f = .done .transportError 0 g ∧
        g.block.regcache = f.block.regcache ∧ g.block.crcAcc = f.block.crcAcc ∧
        g.block.safetyLast = f.block.safetyLast ∧ g.life = f.life ∧ g.answers = rest ∧
        g.wire = f.wire ++ [call]) ∧
    ∀ (p : HostParams) (ri : RegIndex) (upd : Bool) (f : Facade) (a b : List Word)
      (rest : List Answer), f.life = .faulted →
      (f.answers = .success a :: .failure :: rest →
        ∃ g, readRegister p ri upd f = .done .transportError 0 g ∧ g.block = f.block ∧
          g.life = .faulted ∧ g.answers = rest ∧
          g.wire = f.wire ++ [.trigger true, .exchange [p.resetSafetyCmd] none]) ∧
      (f.answers = .success a :: .success b :: .failure :: rest →
        ∃ g words cmd, readRegister p ri upd f = .done .transportError 0 g ∧
          g.block = f.block ∧ g.life = .ready ∧ g.answers = rest ∧
          cmd.toNat = 0x8001 + (if upd then 0x0400 else 0) + 16 * sensorAddress ri.toPort ∧
          g.wire = f.wire ++ [.trigger true, .exchange [p.resetSafetyCmd] (some words),
            .exchange [cmd] none])

/-- R136, R189: a value getter that meets any code but `OK` returns a zero measurement, a getter of one
input and the four-input speed getter alike, whatever inputs they read (assumption log 19); one that
meets `OK` returns what its conversion gives, class included: the angle (R152), the revolution count
(R153), the temperature (R154), the range of a zero and of another field (R155; its integer is zero by
assumption log 28) and the speed (R156), whose range operand is what `CNV_RANGE` gave. -/
def Obligations.GettersReturnZeroOnError : Prop :=
  (∀ (p : HostParams) (input : GetterInput) (conversion : Word → Instr) (f g : Facade)
    (st : ResultCode) (m : Measurement),
    valueGetter p input conversion f = .done st m g → st ≠ .ok → m = {}) ∧
    (∀ (p : HostParams) (speed range fir pred : GetterInput) (f g : Facade) (st : ResultCode)
      (m : Measurement),
      speedGetter p speed range fir pred f = .done st m g → st ≠ .ok → m = {}) ∧
    (∀ (p : HostParams) (input : GetterInput) (f g : Facade) (x : Word),
      readInput p input f = .done .ok x g →
        (input = .register RegIndex.aval false → getAngleValue p f =
          .done .ok { si := signed 15 x, q := Config.num (.finite ((signed 15 x : Rat) * 45 / 4096)) }
            g) ∧
        getRevolutions p input f =
          .done .ok { si := signed 9 x, out := BitVec.ofInt 16 (signed 9 x) } g ∧
        getTemperature p input f = .done .ok
          { si := signed 9 x
            q := Config.num (.finite (((signed 9 x : Rat) + 152) * 125 / 347)) } g ∧
        (x ≠ 0 → getAngleRange p input f =
          .done .ok { q := Config.num (.finite (46080 / (x.toNat : Rat))) } g) ∧
        (x = 0 → ∃ q, getAngleRange p input f = .done .ok { qc := .posInf, q := q } g)) ∧
    ∀ (p : HostParams) (speed range fir pred : GetterInput) (f g : Facade) (a v m e : Word),
      readInputs p [speed, range, fir, pred] f = .done .ok [a, v, m, e] g →
        let rng : Quantity :=
          if v = 0 then .posInf else Config.num (.finite (46080 / (v.toNat : Rat)))
        let r : Quantity := speedDegreesPerSecond rng a m (decide (e ≠ 0))
        speedGetter p speed range fir pred f =
          .done .ok { si := signed 15 a, qc := r.cls, q := Config.num r } g

/-- R181, R182, R184, R202: the sequences run only in `Ready` or `Faulted`, `begin` only in
`Uninitialized`; `end` whose `deinit` succeeds leads to `Ended` and changes no bit of the block. -/
def Obligations.LifecycleGuardsTheSequences : Prop :=
  (∀ (p : HostParams) (d : Descriptor) (v : Word) (ri : RegIndex) (upd : Bool) (f : Facade),
    f.life = .uninitialized ∨ f.life = .ended →
      getBitField p d f = .notAllowed ∧ setBitField p d v f = .notAllowed ∧
      readRegister p ri upd f = .notAllowed ∧ writeRegister p ri v f = .notAllowed ∧
      readBlockCrc p f = .notAllowed ∧ regenerateCrc p f = .notAllowed ∧
      readRegisterMap p f = .notAllowed ∧ getAngleValue p f = .notAllowed ∧
      resetSafety p f = .notAllowed ∧ endSession f = .notAllowed) ∧
    (∀ (p : HostParams) (f : Facade), f.life ≠ .uninitialized → beginSession p f = .notAllowed) ∧
    ∀ (f : Facade) (rx : List Word) (rest : List Answer), f.usable = true →
      f.answers = .success rx :: rest →
        ∃ g, endSession f = .done .ok () g ∧ g.life = .ended ∧ g.block = f.block

/-- R176, R210 under the latch premise on the sensor: after a safety word with a status bit low, and with
no call in between that may have re-read the status register, `CHECK` of every later safety word fails
too (the calls that may: assumption log 27). -/
def Obligations.StickyErrorsFailLaterChecks : Prop :=
  ∀ (c d : WireCall) (mid tail : List WireCall) (latched w w' cmd : Word) (pl : List Word)
    (s : State),
    latchHolds (c :: mid ++ d :: tail) latched = true →
    (∀ e ∈ c :: mid, e.mayRereadStatus = false) →
    c.safetyWord? = some w → w &&& 0x7000 ≠ 0x7000 → d.safetyWord? = some w' →
      ∃ t, exec (.check w' cmd pl) s = .next t ∧
        t.outs.st ∈ [.systemError, .interfaceAccessError, .invalidAngleError]

/-- R39, R209 under the snapshot premise on the sensor: after a trigger that succeeded, two update-sourced
`read_register` of one update-buffer register, both `OK` and with nothing but exchanges between them,
return the same word, and the slot holds it. Which registers are update-buffer registers is any
predicate `buffered` (assumption log 27). -/
def Obligations.SnapshotReadsAgree : Prop :=
  ∀ (p : HostParams) (buffered : Nat → Bool) (ri : RegIndex) (f g f' g' : Facade) (x y : Word)
    (pre post mid : List WireCall),
    buffered (sensorAddress ri.toPort) = true →
    f.wire = pre ++ .trigger true :: post → (∀ e ∈ post ++ mid, e.isExchange = true) →
    readRegister p ri true f = .done .ok x g →
    f'.wire = g.wire ++ mid → f'.life = .ready →
    readRegister p ri true f' = .done .ok y g' →
    snapshotHolds buffered g'.wire none = true →
      x = y ∧ g.block.slot ri = x ∧ g'.block.slot ri = x
end

