-- ==== Sys2Proof/Laws/State.lean ====
section
/-! SUPPORT. One lemma per field of `Block` and `State` for each update, so that no proof unfolds a record
update. -/

namespace Sys2Proof.Machine

@[simp] theorem Block.setSlot_regcache (b : Block) (i : RegIndex) (v : Word) :
    (b.setSlot i v).regcache = b.regcache.set i v := rfl

@[simp] theorem Block.setSlot_crcAcc (b : Block) (i : RegIndex) (v : Word) :
    (b.setSlot i v).crcAcc = b.crcAcc := rfl

@[simp] theorem Block.setSlot_safetyLast (b : Block) (i : RegIndex) (v : Word) :
    (b.setSlot i v).safetyLast = b.safetyLast := rfl

@[simp] theorem Block.setCrcAcc_regcache (b : Block) (a : Byte) :
    (b.setCrcAcc a).regcache = b.regcache := rfl

@[simp] theorem Block.setCrcAcc_crcAcc (b : Block) (a : Byte) :
    (b.setCrcAcc a).crcAcc = a := rfl

@[simp] theorem Block.setCrcAcc_safetyLast (b : Block) (a : Byte) :
    (b.setCrcAcc a).safetyLast = b.safetyLast := rfl

@[simp] theorem Block.setCrcAcc_slot (b : Block) (a : Byte) (k : RegIndex) :
    (b.setCrcAcc a).slot k = b.slot k := rfl

@[simp] theorem Block.setCrcAcc_blockBytes (b : Block) (a : Byte) :
    (b.setCrcAcc a).blockBytes = b.blockBytes := rfl

@[simp] theorem Block.setSafetyLast_regcache (b : Block) (w : Word) :
    (b.setSafetyLast w).regcache = b.regcache := rfl

@[simp] theorem Block.setSafetyLast_crcAcc (b : Block) (w : Word) :
    (b.setSafetyLast w).crcAcc = b.crcAcc := rfl

@[simp] theorem Block.setSafetyLast_safetyLast (b : Block) (w : Word) :
    (b.setSafetyLast w).safetyLast = some w := rfl

@[simp] theorem Block.setSafetyLast_slot (b : Block) (w : Word) (k : RegIndex) :
    (b.setSafetyLast w).slot k = b.slot k := rfl

@[simp] theorem Block.setSafetyLast_blockBytes (b : Block) (w : Word) :
    (b.setSafetyLast w).blockBytes = b.blockBytes := rfl

@[simp] theorem Block.drive_fst (b : Block) (o : Outputs) : (b.drive o).1 = o := rfl

@[simp] theorem Block.drive_snd (b : Block) (o : Outputs) : (b.drive o).2 = b := rfl

@[simp] theorem Block.endWith_fst (b : Block) (c : ResultCode) : (b.endWith c).1 = { st := c } := rfl

@[simp] theorem Block.endWith_snd (b : Block) (c : ResultCode) : (b.endWith c).2 = b := rfl

@[simp] theorem State.takeOffer_toBlock (s : State) :
    (s.takeOffer).toBlock = s.toBlock := rfl

@[simp] theorem State.takeOffer_outs (s : State) :
    (s.takeOffer).outs = s.outs := rfl

@[simp] theorem State.takeOffer_offers (s : State) :
    (s.takeOffer).offers = s.offers.tail := rfl

@[simp] theorem State.withOffer_toBlock (s : State) (o : Offer) :
    (s.withOffer o).toBlock = s.toBlock := rfl

@[simp] theorem State.withOffer_outs (s : State) (o : Offer) :
    (s.withOffer o).outs = s.outs := rfl

@[simp] theorem State.withOffer_offers (s : State) (o : Offer) :
    (s.withOffer o).offers = o :: s.offers := rfl

@[simp] theorem State.takeOffer_withOffer (s : State) (o : Offer) : (s.withOffer o).takeOffer = s := rfl

@[simp] theorem State.nextOffer_withOffer (s : State) (o : Offer) : (s.withOffer o).nextOffer = o := rfl

end Sys2Proof.Machine
end

