-- ==== Sys2Proof/Laws/Ops.lean ====
section
/-! SUPPORT. What each shared operation can do, said once. -/

namespace Sys2Proof

/-! ### Indices and words -/

theorem RegIndex.ofPort_of_lt {ri : BitVec 5} (h : ri.toNat < 22) :
    RegIndex.ofPort ri = some ⟨ri.toNat, h⟩ := by
  simp [RegIndex.ofPort, h]

theorem RegIndex.ofPort_of_ge {ri : BitVec 5} (h : 22 ≤ ri.toNat) :
    RegIndex.ofPort ri = none := by
  simp [RegIndex.ofPort, Nat.not_lt.mpr h]

theorem RegIndex.ofPort_eq_some {ri : BitVec 5} {i : RegIndex} (h : RegIndex.ofPort ri = some i) :
    ri.toNat = i.val := by
  unfold RegIndex.ofPort at h
  split at h
  · cases h; rfl
  · cases h

@[simp] theorem RegIndex.toPort_toNat (i : RegIndex) : i.toPort.toNat = i.val := by
  have h := i.isLt
  simp only [RegIndex.toPort, BitVec.toNat_ofNat]
  omega

@[simp] theorem RegIndex.ofPort_toPort (i : RegIndex) : RegIndex.ofPort i.toPort = some i := by
  have h : i.toPort.toNat < 22 := by rw [RegIndex.toPort_toNat]; exact i.isLt
  rw [RegIndex.ofPort_of_lt h]
  simp

theorem hi8_toNat (w : Word) : (hi8 w).toNat = w.toNat / 256 := by
  have := w.isLt
  simp only [hi8, BitVec.extractLsb'_toNat, Nat.shiftRight_eq_div_pow]
  omega

theorem lo8_toNat (w : Word) : (lo8 w).toNat = w.toNat % 256 := by
  simp [lo8, BitVec.extractLsb'_toNat]

theorem wordOfBytes_toNat (h l : Byte) : (wordOfBytes h l).toNat = h.toNat * 256 + l.toNat := by
  have := l.isLt
  simp only [wordOfBytes, BitVec.toNat_append]
  rw [← Nat.shiftLeft_add_eq_or_of_lt this, Nat.shiftLeft_eq]

@[simp] theorem hi8_wordOfBytes (h l : Byte) : hi8 (wordOfBytes h l) = h := by
  apply BitVec.eq_of_toNat_eq
  have := h.isLt
  have := l.isLt
  rw [hi8_toNat, wordOfBytes_toNat]
  omega

@[simp] theorem lo8_wordOfBytes (h l : Byte) : lo8 (wordOfBytes h l) = l := by
  apply BitVec.eq_of_toNat_eq
  have := l.isLt
  rw [lo8_toNat, wordOfBytes_toNat]
  omega

namespace Machine

/-! ### Cache slots -/

@[simp] theorem Block.slot_setSlot_same (b : Block) (i : RegIndex) (v : Word) :
    (b.setSlot i v).slot i = v := by
  simp [Block.slot]

theorem Block.slot_setSlot_of_ne (b : Block) {i k : RegIndex} (v : Word) (h : i ≠ k) :
    (b.setSlot i v).slot k = b.slot k := by
  simp only [Block.slot, Block.setSlot_regcache, Fin.getElem_fin]
  exact Vector.getElem_set_ne (i := i.val) (j := k.val) i.isLt k.isLt (fun e => h (Fin.ext e))

/-- Two caches with equal slots are equal data. -/
theorem Block.regcache_ext {b c : Block} (h : ∀ i : RegIndex, b.slot i = c.slot i) :
    b.regcache = c.regcache := by
  apply Vector.ext
  intro i hi
  exact h ⟨i, hi⟩

/-! ### One operation as one step -/

/-- All a step of one operation can do: it answers the operation's outputs and block and keeps what the
host is still to invoke. -/
theorem State.perform_eq_next {s t : State} {op : Block → Result} (h : s.perform op = .next t) :
    t.toBlock = (op s.toBlock).2 ∧ t.outs = (op s.toBlock).1 ∧ t.offers = s.offers := by
  cases h
  exact ⟨rfl, rfl, rfl⟩

/-! ### The index test -/

theorem withIndex_of_lt {ri : BitVec 5} (b : Block) (k : RegIndex → Result)
    (h : ri.toNat < 22) : withIndex ri b k = k ⟨ri.toNat, h⟩ := by
  simp [withIndex, RegIndex.ofPort_of_lt h]

theorem withIndex_of_ge {ri : BitVec 5} (b : Block) (k : RegIndex → Result)
    (h : 22 ≤ ri.toNat) : withIndex ri b k = b.endWith .illegalOp := by
  simp [withIndex, RegIndex.ofPort_of_ge h]

@[simp] theorem withIndex_toPort (i : RegIndex) (b : Block) (k : RegIndex → Result) :
    withIndex i.toPort b k = k i := by
  simp [withIndex]

/-- All an operation with an index operand can do: run at its index, or answer `ILLEGAL_OP`. -/
theorem withIndex_cases (ri : BitVec 5) (b : Block) (k : RegIndex → Result) :
    (∃ i : RegIndex, ri.toNat = i.val ∧ withIndex ri b k = k i) ∨
      (22 ≤ ri.toNat ∧ withIndex ri b k = b.endWith .illegalOp) := by
  rcases Nat.lt_or_ge ri.toNat 22 with h | h
  · exact .inl ⟨⟨ri.toNat, h⟩, rfl, withIndex_of_lt b k h⟩
  · exact .inr ⟨h, withIndex_of_ge b k h⟩

/-! ### Status bits -/

/-- All the status test can answer (R108 steps 1 to 3). -/
theorem statusBitsError_cases (w : Word) :
    (w[14] = false ∧ statusBitsError w = some .systemError) ∨
      (w[14] = true ∧ w[13] = false ∧ statusBitsError w = some .interfaceAccessError) ∨
      (w[14] = true ∧ w[13] = true ∧ w[12] = false ∧
        statusBitsError w = some .invalidAngleError) ∨
      (w[14] = true ∧ w[13] = true ∧ w[12] = true ∧ statusBitsError w = none) := by
  unfold statusBitsError
  cases w[14] <;> cases w[13] <;> cases w[12] <;> simp

/-! ### The CRC -/

@[simp] theorem crcAbsorb_nil (acc : Byte) : crcAbsorb acc [] = acc := rfl

@[simp] theorem crcAbsorb_cons (acc b : Byte) (bs : List Byte) :
    crcAbsorb acc (b :: bs) = crcAbsorb (crcStep acc b) bs := rfl

@[simp] theorem crcAbsorb_append (acc : Byte) (xs ys : List Byte) :
    crcAbsorb acc (xs ++ ys) = crcAbsorb (crcAbsorb acc xs) ys := by
  simp [crcAbsorb, List.foldl_append]

/-- The step depends on accumulator and byte through their XOR only (R104). -/
theorem crcStep_eq_zero_byte (acc b : Byte) : crcStep acc b = crcStep (acc ^^^ b) 0 := by
  simp [crcStep]

end Machine

end Sys2Proof
end

