-- ==== Sys2Proof/Laws/Exec.lean ====
section
/-! SUPPORT. What `exec` and `step` answer, said once per meaning: the lemmas the proofs cite instead of
unfolding a meaning. -/

namespace Sys2Proof.Machine

/-- Every instruction is one operation of the block: a function of the block alone (R8, R10), so nothing of
what the model holds beside the block can be read or, but for the outputs, changed by it. -/
theorem exec_is_operation (i : Instr) :
    ∃ op : Block → Result, ∀ s : State, exec i s = s.perform op := by
  refine ⟨fun b => b.operate i, fun s => ?_⟩
  cases i <;> rfl

/-- Every operation answers a next state: the block has no fault (R7, R178). -/
theorem exec_answers_next (i : Instr) (s : State) : ∃ t, exec i s = .next t := by
  obtain ⟨op, h⟩ := exec_is_operation i
  exact ⟨_, h s⟩

/-- The state a list of operations goes on with is the one `exec` answers. -/
theorem exec_eq_runOperation (i : Instr) (s : State) : exec i s = .next (runOperation i s) := by
  obtain ⟨t, h⟩ := exec_answers_next i s
  rw [h, runOperation, h]

theorem runOperation_of_exec {i : Instr} {s t : State} (h : exec i s = .next t) :
    runOperation i s = t := by
  rw [exec_eq_runOperation] at h
  exact Host.Outcome.next.inj h

/-- What `exec` answers, in terms of the operation on the block. -/
theorem exec_eq_operate (i : Instr) (s : State) :
    exec i s = .next { toBlock := (s.toBlock.operate i).2, outs := (s.toBlock.operate i).1,
                       offers := s.offers } := by
  obtain ⟨op, h⟩ := exec_is_operation i
  simp only [Block.operate, runOperation, h, State.perform]

/-- The operation on the block, from what `exec` answers on any state around it. -/
theorem Block.operate_of_exec {i : Instr} {s t : State} (h : exec i s = .next t) :
    s.toBlock.operate i = (t.outs, t.toBlock) := by
  rw [exec_eq_operate] at h
  cases h
  rfl

/-- All `step` can do: run the decoded instruction, or refuse what decodes to none. -/
theorem step_cases (s : State) :
    (∃ i, decode s.nextOffer = .ok i ∧ step s = exec i s.takeOffer) ∨
      (∃ e, decode s.nextOffer = .error e ∧ step s = .refused (refusalOf e)) := by
  unfold step
  cases h : decode s.nextOffer with
  | ok i => exact .inl ⟨i, rfl, rfl⟩
  | error e => exact .inr ⟨e, rfl, rfl⟩

theorem step_of_decode {s : State} {i : Instr} (h : decode s.nextOffer = .ok i) :
    step s = exec i s.takeOffer := by
  simp [step, h]

/-- What `CHECK` does: the status bits decide, or the CRC does (R108). -/
theorem check_cases (w cmd : Word) (pl : List Word) (b : Block) :
    (∃ c, statusBitsError w = some c ∧ b.operate (.check w cmd pl) =
        (b.setSafetyLast w).drive { st := c, resetReq := resetRequest c }) ∨
      (statusBitsError w = none ∧ crc8 (txBytes cmd pl) = lo8 w ∧ b.operate (.check w cmd pl) =
        ((b.setSafetyLast w).setCrcAcc (crcAbsorb crcSeed (txBytes cmd pl))).drive {}) ∨
      (statusBitsError w = none ∧ crc8 (txBytes cmd pl) ≠ lo8 w ∧ b.operate (.check w cmd pl) =
        ((b.setSafetyLast w).setCrcAcc (crcAbsorb crcSeed (txBytes cmd pl))).drive
          { st := .crcError, resetReq := true }) := by
  cases h : statusBitsError w with
  | some c =>
    exact .inl ⟨c, rfl, by simp [Block.operate, runOperation, exec, execCheck, State.perform, h,
      Block.drive]⟩
  | none =>
    rcases Decidable.em (crc8 (txBytes cmd pl) = lo8 w) with e | e
    · refine .inr (.inl ⟨rfl, e, ?_⟩)
      have e' : ~~~ crcAbsorb crcSeed (txBytes cmd pl) = lo8 w := e
      simp [Block.operate, runOperation, exec, execCheck, State.perform, h, e', resetRequest,
        Block.drive]
    · refine .inr (.inr ⟨rfl, e, ?_⟩)
      have e' : ¬ (~~~ crcAbsorb crcSeed (txBytes cmd pl) = lo8 w) := e
      simp [Block.operate, runOperation, exec, execCheck, State.perform, h, e', resetRequest,
        Block.drive]

end Sys2Proof.Machine
end

