-- ==== Sys2Proof/Laws/HostSequences.lean ====
section
/-! SUPPORT. What the pieces of a host sequence can do. -/

namespace Sys2Proof.Machine

@[simp] theorem HostOutcome.andThen_ok {α β : Type} (v : α) (f : Facade) (zero : β)
    (k : α → Facade → HostOutcome β) :
    (HostOutcome.done .ok v f).andThen zero k = k v f := rfl

theorem HostOutcome.andThen_error {α β : Type} {st : ResultCode} (h : st ≠ .ok) (v : α)
    (f : Facade) (zero : β) (k : α → Facade → HostOutcome β) :
    (HostOutcome.done st v f).andThen zero k = .done st zero f := by
  cases st with
  | ok => exact absurd rfl h
  | _ => rfl

@[simp] theorem HostOutcome.andThen_blocked {α β : Type} (f : Facade) (zero : β)
    (k : α → Facade → HostOutcome β) :
    (HostOutcome.blocked f : HostOutcome α).andThen zero k = .blocked f := rfl

@[simp] theorem HostOutcome.andThen_notAllowed {α β : Type} (zero : β)
    (k : α → Facade → HostOutcome β) :
    (HostOutcome.notAllowed : HostOutcome α).andThen zero k = .notAllowed := rfl

/-- All a chained sequence that returns can have done: its first part ended `OK` and the rest returned
this, or the first part ended with this code and the value is the zero given. -/
theorem HostOutcome.andThen_eq_done {α β : Type} {r : HostOutcome α} {zero : β}
    {k : α → Facade → HostOutcome β} {st : ResultCode} {v : β} {g : Facade}
    (h : r.andThen zero k = .done st v g) :
    (∃ a f, r = .done .ok a f ∧ k a f = .done st v g) ∨
      (∃ a, st ≠ .ok ∧ r = .done st a g ∧ v = zero) := by
  cases r with
  | done c a f =>
    by_cases hc : c = .ok
    · subst hc
      exact .inl ⟨a, f, rfl, h⟩
    · rw [HostOutcome.andThen_error hc] at h
      injection h with h1 h2 h3
      subst h1 h2 h3
      exact .inr ⟨a, hc, rfl, rfl⟩
  | blocked f => cases h
  | notAllowed => cases h

/-- All one call on the Transport Port can do (R41, R175). -/
theorem Facade.transport_cases (f : Facade) (log : Option (List Word) → WireCall) :
    (f.answers = [] ∧ f.transport log = .blocked f) ∨
      (∃ rest, f.answers = .failure :: rest ∧ f.transport log =
        .done .transportError [] { f with answers := rest, wire := f.wire ++ [log none] }) ∨
      (∃ rx rest, f.answers = .success rx :: rest ∧ f.transport log =
        .done .ok rx { f with answers := rest, wire := f.wire ++ [log (some rx)] }) := by
  rcases f with ⟨b, l, a, w⟩
  match a with
  | [] => exact .inl ⟨rfl, rfl⟩
  | .failure :: rest => exact .inr (.inl ⟨rest, rfl, rfl⟩)
  | .success rx :: rest => exact .inr (.inr ⟨rx, rest, rfl, rfl⟩)

@[simp] theorem receiveFrame_length (n : Nat) (rx : List Word) :
    (receiveFrame n rx).length = n := by
  simp [receiveFrame]

@[simp] theorem Facade.invoke_block (f : Facade) (i : Instr) :
    (f.invoke i).block = (f.block.operate i).2 := rfl
@[simp] theorem Facade.invoke_life (f : Facade) (i : Instr) : (f.invoke i).life = f.life := rfl
@[simp] theorem Facade.invoke_answers (f : Facade) (i : Instr) :
    (f.invoke i).answers = f.answers := rfl
@[simp] theorem Facade.invoke_wire (f : Facade) (i : Instr) : (f.invoke i).wire = f.wire := rfl

theorem Facade.call_eq {α : Type} (f : Facade) (i : Instr) (k : Outputs → Facade → α) :
    f.call i k = k (f.block.operate i).1 (f.invoke i) := rfl

/-- All the host's `CHECK` can do: the code of the check, the block it leaves, and `Faulted` exactly when a
reset is requested. -/
theorem Facade.check_eq {α : Type} (f : Facade) (w cmd : Word) (pl : List Word)
    (k : ResultCode → Facade → α) :
    f.check w cmd pl k = k (f.block.operate (.check w cmd pl)).1.st
      { f with
        block := (f.block.operate (.check w cmd pl)).2
        life := if (f.block.operate (.check w cmd pl)).1.resetReq then .faulted else f.life } := by
  simp only [Facade.check, Facade.call]
  split <;> rfl

end Sys2Proof.Machine
end

