-- ==== Sys2Proof/Laws/Words.lean ====
section
/-! SUPPORT. The assembled words and descriptors as numbers, and their fields as quotients and
remainders. -/

namespace Sys2Proof

theorem toNat_append_eq {m n : Nat} (x : BitVec m) (y : BitVec n) :
    (x ++ y).toNat = x.toNat * 2 ^ n + y.toNat := by
  rw [BitVec.toNat_append, ← Nat.shiftLeft_add_eq_or_of_lt y.isLt, Nat.shiftLeft_eq]

theorem commandWord_toNat (rw : Bool) (cls : BitVec 4) (upd : Bool) (addr : BitVec 6)
    (nd : BitVec 4) :
    (commandWord rw cls upd addr nd).toNat =
      rw.toNat * 32768 + cls.toNat * 2048 + upd.toNat * 1024 + addr.toNat * 16 + nd.toNat := by
  show (BitVec.ofBool rw ++ cls ++ BitVec.ofBool upd ++ addr ++ nd).toNat = _
  simp only [toNat_append_eq, BitVec.toNat_ofBool]
  omega

theorem safetyWordOf_toNat (a b c d : Bool) (slaveId : BitVec 4) (crc : Byte) :
    (safetyWordOf a b c d slaveId crc).toNat =
      a.toNat * 32768 + b.toNat * 16384 + c.toNat * 8192 + d.toNat * 4096 +
        slaveId.toNat * 256 + crc.toNat := by
  show (BitVec.ofBool a ++ BitVec.ofBool b ++ BitVec.ofBool c ++ BitVec.ofBool d ++ slaveId ++
    crc).toNat = _
  simp only [toNat_append_eq, BitVec.toNat_ofBool]
  omega

theorem extractLsb'_toNat_eq {n : Nat} (start len : Nat) (x : BitVec n) :
    (x.extractLsb' start len).toNat = x.toNat / 2 ^ start % 2 ^ len := by
  rw [BitVec.extractLsb'_toNat, Nat.shiftRight_eq_div_pow]

theorem getElem_eq_decide {n : Nat} (x : BitVec n) (i : Nat) (h : i < n) :
    x[i] = decide (x.toNat / 2 ^ i % 2 = 1) := by
  rw [← BitVec.getLsbD_eq_getElem, BitVec.getLsbD, Nat.testBit_eq_decide_div_mod_eq]

theorem and_top_bits (w : Word) : w.toNat &&& 0xF800 = w.toNat / 2048 * 2048 := by
  have h1 : w &&& 0xF800#16 = (w >>> 11) <<< 11 := by
    ext i hi
    simp only [BitVec.getElem_and, BitVec.getElem_shiftLeft, BitVec.getElem_ushiftRight]
    interval_cases i <;> simp
  have h2 := congrArg BitVec.toNat h1
  have := w.isLt
  rw [BitVec.toNat_and, BitVec.toNat_shiftLeft, BitVec.toNat_ushiftRight,
    Nat.shiftRight_eq_div_pow, Nat.shiftLeft_eq] at h2
  have h3 : w.toNat &&& 0xF800 = w.toNat / 2 ^ 11 * 2 ^ 11 % 2 ^ 16 := h2
  omega

/-- The form of a command word is its five top bits (R55). -/
theorem commandKind_eq (w : Word) :
    commandKind w = if w.toNat / 2048 = 16 then .read
      else if w.toNat / 2048 = 10 then .write else .other := by
  have hmask : ∀ c : Word, c.toNat % 2048 = 0 →
      (w &&& 0xF800 = c ↔ w.toNat / 2048 = c.toNat / 2048) := by
    intro c hc
    have e : (w &&& (0xF800 : Word)).toNat = w.toNat / 2048 * 2048 := by
      rw [BitVec.toNat_and]
      exact and_top_bits w
    constructor
    · intro h
      have := congrArg BitVec.toNat h
      rw [e] at this
      omega
    · intro h
      apply BitVec.eq_of_toNat_eq
      rw [e]
      omega
  unfold commandKind
  simp only [hmask readBase (by decide), hmask writeBase (by decide)]
  rfl

theorem Access.ofBits_toBits (a : Access) : Access.ofBits a.toBits = a := by
  rcases a with ⟨_ | _, _ | _, _ | _, _ | _⟩ <;> rfl

theorem Access.toBits_ofBits (b : BitVec 4) : (Access.ofBits b).toBits = b := by
  revert b
  decide

theorem Descriptor.toBits_toNat (d : Descriptor) :
    d.toBits.toNat =
      d.reg.toNat * 2 ^ 24 + d.mask.toNat * 256 + d.pos.toNat * 16 + d.acc.toBits.toNat := by
  show (d.reg ++ d.mask ++ d.pos ++ d.acc.toBits).toNat = _
  simp only [toNat_append_eq]
  omega

/-- The packing of a descriptor loses nothing (assumption log 8). -/
@[simp] theorem Descriptor.ofBits_toBits (d : Descriptor) : Descriptor.ofBits d.toBits = d := by
  have key := d.toBits_toNat
  have hm := d.mask.isLt
  have hp := d.pos.isLt
  have ha := d.acc.toBits.isLt
  have hr := d.reg.isLt
  rcases d with ⟨r, m, p, a⟩
  simp only [Descriptor.ofBits, Descriptor.mk.injEq]
  simp only at key hm hp ha hr
  refine ⟨?_, ?_, ?_, ?_⟩
  · apply BitVec.eq_of_toNat_eq
    rw [extractLsb'_toNat_eq, key]
    omega
  · apply BitVec.eq_of_toNat_eq
    rw [extractLsb'_toNat_eq, key]
    omega
  · apply BitVec.eq_of_toNat_eq
    rw [extractLsb'_toNat_eq, key]
    omega
  · refine (congrArg Access.ofBits ?_).trans (Access.ofBits_toBits a)
    apply BitVec.eq_of_toNat_eq
    rw [extractLsb'_toNat_eq, key]
    omega

/-- The four codes of `qc` name the four classes, one each (R151). -/
@[simp] theorem QClass.ofBits_toBits (c : QClass) : QClass.ofBits c.toBits = c := by
  cases c <;> rfl

@[simp] theorem QClass.toBits_ofBits (b : BitVec 2) : (QClass.ofBits b).toBits = b := by
  revert b
  decide

end Sys2Proof
end

