-- ==== Sys2Proof/Laws/PerInstr.lean ====
section
/-! SUPPORT. Statements about every instruction as syntax, one lemma per constructor. `FixedBits`: the
encoding of an instruction has the fixed bits of its row of spec/opcode_table.json (mask and match). -/

namespace Sys2Proof.Laws

/-- The number the opcode table's mask applies to: the selector, or the wire word. -/
def tableBits : Offer → Nat
  | .op5 p => p.op.toNat
  | .cmd16 w => w.toNat
  | .safety16 w => w.toNat

/-- Mask and match of the instruction's row of spec/opcode_table.json. -/
def tableRow : Instr → Nat × Nat
  | .nop => (0x1F, 0x00)
  | .regoff _ => (0x1F, 0x01)
  | .buildRd _ _ _ _ => (0x1F, 0x02)
  | .buildWr _ _ => (0x1F, 0x03)
  | .decCmd _ => (0x1F, 0x04)
  | .decSafe _ => (0x1F, 0x05)
  | .crcInit => (0x1F, 0x08)
  | .crcByte _ => (0x1F, 0x09)
  | .crcWord _ => (0x1F, 0x0A)
  | .crcRead => (0x1F, 0x0B)
  | .check _ _ _ => (0x1F, 0x0C)
  | .cacheWr _ _ => (0x1F, 0x10)
  | .cacheRd _ => (0x1F, 0x11)
  | .fldGet _ _ => (0x1F, 0x12)
  | .fldSet _ _ => (0x1F, 0x13)
  | .blockCrc => (0x1F, 0x14)
  | .fldChk _ _ => (0x1F, 0x15)
  | .cnvAngle _ => (0x1F, 0x18)
  | .cnvRevol _ => (0x1F, 0x19)
  | .cnvTemp _ => (0x1F, 0x1A)
  | .cnvRange _ => (0x1F, 0x1B)
  | .cnvSpeed _ _ _ _ => (0x1F, 0x1C)
  | .reserved06 => (0x1F, 0x06)
  | .reserved07 => (0x1F, 0x07)
  | .reserved0D => (0x1F, 0x0D)
  | .reserved0E => (0x1F, 0x0E)
  | .reserved0F => (0x1F, 0x0F)
  | .reserved16 => (0x1F, 0x16)
  | .reserved17 => (0x1F, 0x17)
  | .reserved1D => (0x1F, 0x1D)
  | .reserved1E => (0x1F, 0x1E)
  | .reserved1F => (0x1F, 0x1F)
  | .cmdRead _ _ _ => (0xF800, 0x8000)
  | .cmdWrite _ _ _ => (0xF800, 0x5000)
  | .safetyWord _ _ _ _ _ _ => (0x0000, 0x0000)

namespace FixedBits

/-- The five top bits of a command word are `rw` and `cls`. -/
theorem command_top_bits (rw : Bool) (cls : BitVec 4) (upd : Bool) (addr : BitVec 6)
    (nd : BitVec 4) :
    (commandWord rw cls upd addr nd).toNat &&& 0xF800 = rw.toNat * 32768 + cls.toNat * 2048 := by
  have h1 := commandWord_toNat rw cls upd addr nd
  have h2 := upd.toNat_lt
  have h3 := addr.isLt
  have h4 := nd.isLt
  rw [and_top_bits, h1]
  omega

/-- The encoding has the fixed bits of the instruction's row. -/
def Statement (i : Instr) : Prop := tableBits (encode i) &&& (tableRow i).1 = (tableRow i).2

theorem nop : Statement .nop := by
  simp [Statement, tableBits, encode, tableRow]
theorem regoff (ri : BitVec 5) : Statement (.regoff ri) := by
  simp [Statement, tableBits, encode, tableRow]
theorem buildRd (ri : BitVec 5) (upd safe : Bool) (len : BitVec 4) : Statement (.buildRd ri upd safe len) := by
  simp [Statement, tableBits, encode, tableRow]
theorem buildWr (ri : BitVec 5) (safe : Bool) : Statement (.buildWr ri safe) := by
  simp [Statement, tableBits, encode, tableRow]
theorem decCmd (w : Word) : Statement (.decCmd w) := by
  simp [Statement, tableBits, encode, tableRow]
theorem decSafe (w : Word) : Statement (.decSafe w) := by
  simp [Statement, tableBits, encode, tableRow]
theorem crcInit : Statement .crcInit := by
  simp [Statement, tableBits, encode, tableRow]
theorem crcByte (b : Byte) : Statement (.crcByte b) := by
  simp [Statement, tableBits, encode, tableRow]
theorem crcWord (w : Word) : Statement (.crcWord w) := by
  simp [Statement, tableBits, encode, tableRow]
theorem crcRead : Statement .crcRead := by
  simp [Statement, tableBits, encode, tableRow]
theorem check (w cmd : Word) (pl : List Word) : Statement (.check w cmd pl) := by
  simp [Statement, tableBits, encode, tableRow]
theorem cacheWr (ri : BitVec 5) (w : Word) : Statement (.cacheWr ri w) := by
  simp [Statement, tableBits, encode, tableRow]
theorem cacheRd (ri : BitVec 5) : Statement (.cacheRd ri) := by
  simp [Statement, tableBits, encode, tableRow]
theorem fldGet (d : Descriptor) (raw : Word) : Statement (.fldGet d raw) := by
  simp [Statement, tableBits, encode, tableRow]
theorem fldSet (d : Descriptor) (v : Word) : Statement (.fldSet d v) := by
  simp [Statement, tableBits, encode, tableRow]
theorem blockCrc : Statement .blockCrc := by
  simp [Statement, tableBits, encode, tableRow]
theorem fldChk (d : Descriptor) (wr : Bool) : Statement (.fldChk d wr) := by
  simp [Statement, tableBits, encode, tableRow]
theorem cnvAngle (raw : Word) : Statement (.cnvAngle raw) := by
  simp [Statement, tableBits, encode, tableRow]
theorem cnvRevol (raw : Word) : Statement (.cnvRevol raw) := by
  simp [Statement, tableBits, encode, tableRow]
theorem cnvTemp (raw : Word) : Statement (.cnvTemp raw) := by
  simp [Statement, tableBits, encode, tableRow]
theorem cnvRange (v : Word) : Statement (.cnvRange v) := by
  simp [Statement, tableBits, encode, tableRow]
theorem cnvSpeed (rng : Quantity) (raw v : Word) (pred : Bool) : Statement (.cnvSpeed rng raw v pred) := by
  simp [Statement, tableBits, encode, tableRow]
theorem reserved06 : Statement .reserved06 := by
  simp [Statement, tableBits, encode, tableRow]
theorem reserved07 : Statement .reserved07 := by
  simp [Statement, tableBits, encode, tableRow]
theorem reserved0D : Statement .reserved0D := by
  simp [Statement, tableBits, encode, tableRow]
theorem reserved0E : Statement .reserved0E := by
  simp [Statement, tableBits, encode, tableRow]
theorem reserved0F : Statement .reserved0F := by
  simp [Statement, tableBits, encode, tableRow]
theorem reserved16 : Statement .reserved16 := by
  simp [Statement, tableBits, encode, tableRow]
theorem reserved17 : Statement .reserved17 := by
  simp [Statement, tableBits, encode, tableRow]
theorem reserved1D : Statement .reserved1D := by
  simp [Statement, tableBits, encode, tableRow]
theorem reserved1E : Statement .reserved1E := by
  simp [Statement, tableBits, encode, tableRow]
theorem reserved1F : Statement .reserved1F := by
  simp [Statement, tableBits, encode, tableRow]
theorem cmdRead (upd : Bool) (addr : BitVec 6) (nd : BitVec 4) : Statement (.cmdRead upd addr nd) :=
  command_top_bits true 0b0000 upd addr nd
theorem cmdWrite (upd : Bool) (addr : BitVec 6) (nd : BitVec 4) : Statement (.cmdWrite upd addr nd) :=
  command_top_bits false 0b1010 upd addr nd
theorem safetyWord (noReset noSysErr noIfErr validAngle : Bool) (slaveId : BitVec 4) (crc : Byte) :
    Statement (.safetyWord noReset noSysErr noIfErr validAngle slaveId crc) := Nat.and_zero _

end FixedBits

end Sys2Proof.Laws
end

