-- ==== Sys2Proof/Tests/Slice0.lean ====
section
/-! SUPPORT. The model's own tests. Expected values come from spec/95_test_vectors.md (the vector's name
stands in the comment), from the encodings of spec/30_encoding.md, or from a rule named there. The
last part shows, for each statement with hypotheses, states and operands that meet them. -/

namespace Sys2Proof.Tests

open Sys2Proof Sys2Proof.Machine

/-! ### WellFormed: each check refuses an ill-formed term -/

/-- R108, R214: at most 15 payload words. -/
theorem test_check_payload_of_16_is_ill_formed :
    (Instr.check 0 0 (List.replicate 16 0)).wellFormed = false ∧
      (Instr.check 0 0 (List.replicate 15 0)).wellFormed = true := by decide

/-- R65: `reg <= 21`, `mask != 0`, no mask bit below `pos`. -/
theorem test_descriptor_checks :
    ¬ (Descriptor.mk 22 0x0001 0 ⟨true, true, false, false⟩).WellFormed ∧
      ¬ (Descriptor.mk 21 0x0000 3 ⟨true, true, false, false⟩).WellFormed ∧
      ¬ (Descriptor.mk 21 0x0FF0 6 ⟨true, true, false, false⟩).WellFormed ∧
      (Descriptor.mk 21 0x0060 4 ⟨true, true, false, false⟩).WellFormed := by decide

/-- Parameters with the given field, dummy read, block read and first map read. -/
def paramsWith (d : Descriptor) (resetCmd blockCmd mapCmd : Word) : HostParams :=
  { fieldCount := 1
    fieldTable := #v[d]
    resetSafetyCmd := resetCmd
    blockCrcCmd := blockCmd
    regmapCmds := #v[mapCmd, 0x80E8, 0x8201, 0x8301]
    writePending := fun stat => stat[15]
    regenRetry := some 1
    slaveReg := 6
    slaveValue := 0x4001 }

/-- The angle field of P5: readable, from the update buffer. -/
def angleField : Descriptor := ⟨2, 0x7FFF, 0, ⟨true, false, true, false⟩⟩

/-- The field of P2: readable and writable, in the CRC-protected block. -/
def blockField : Descriptor := ⟨8, 0x7FF0, 4, ⟨true, true, false, false⟩⟩

/-- The parameters of P2 and P4. -/
def params : HostParams := paramsWith angleField 0x8001 0x8088 0x800E

/-- R177: the dummy read is a `READ` word with the safety flag; R135: the block read starts at address 8
and asks for 8 words at least; R133: the map reads are `READ` words
and reach every mapped address (0x800D leaves out IFAB); R65. -/
theorem test_params_checks : params.WellFormed ∧
    ¬ (paramsWith angleField 0x8002 0x8088 0x800E).WellFormed ∧
    ¬ (paramsWith angleField 0x5001 0x8088 0x800E).WellFormed ∧
    ¬ (paramsWith { angleField with mask := 0 } 0x8001 0x8088 0x800E).WellFormed := by decide

theorem test_block_and_map_reads : ¬ (paramsWith angleField 0x8001 0x8087 0x800E).WellFormed ∧
    ¬ (paramsWith angleField 0x8001 0x8098 0x800E).WellFormed ∧
    ¬ (paramsWith angleField 0x8001 0x8088 0x880E).WellFormed ∧
    ¬ (paramsWith angleField 0x8001 0x8088 0x800D).WellFormed := by decide

/-! ### Decoding: every constructor, from codes and words written out (R50, R57, R60, R62, R64) -/

theorem test_decode_selector_and_codec :
    decode (.op5 { op := 0b00000 }) = .ok .nop ∧
      decode (.op5 { op := 0b00001, ri := 0b10010 }) = .ok (.regoff 18) ∧
      decode (.op5 { op := 0b00010, ri := 0b00010, upd := true, len := 0b0111 }) =
        .ok (.buildRd 2 true false 7) ∧
      decode (.op5 { op := 0b00011, ri := 0b01111, safe := true }) = .ok (.buildWr 15 true) ∧
      decode (.op5 { op := 0b00100, w := 0x8021 }) = .ok (.decCmd 0x8021) ∧
      decode (.op5 { op := 0b00101, w := 0x7067 }) = .ok (.decSafe 0x7067) := by decide

theorem test_decode_validator :
    decode (.op5 { op := 0b01000 }) = .ok .crcInit ∧
      decode (.op5 { op := 0b01001, b := 0x21 }) = .ok (.crcByte 0x21) ∧
      decode (.op5 { op := 0b01010, w := 0x1000 }) = .ok (.crcWord 0x1000) ∧
      decode (.op5 { op := 0b01011 }) = .ok .crcRead ∧
      decode (.op5 { op := 0b01100, w := 0x7067, cmd := 0x8021, pn := 1,
                     pl := #v[0x1000, 0xFFFF, 0, 0, 0, 0, 0, 0, 0, 0, 0, 0, 0, 0, 0] }) =
        .ok (.check 0x7067 0x8021 [0x1000]) := by decide

theorem test_decode_register_model :
    decode (.op5 { op := 0b10000, ri := 21, w := 0xBEEF }) = .ok (.cacheWr 21 0xBEEF) ∧
      decode (.op5 { op := 0b10001, ri := 31 }) = .ok (.cacheRd 31) ∧
      decode (.op5 { op := 0b10010, d := 0b00010_0111111111111111_0000_0101, raw := 0x9000 }) =
        .ok (.fldGet ⟨2, 0x7FFF, 0, ⟨true, false, true, false⟩⟩ 0x9000) ∧
      decode (.op5 { op := 0b10011, d := 0b01000_0111111111110000_0100_0011, v := 0x0040 }) =
        .ok (.fldSet ⟨8, 0x7FF0, 4, ⟨true, true, false, false⟩⟩ 0x0040) ∧
      decode (.op5 { op := 0b10100 }) = .ok .blockCrc ∧
      decode (.op5 { op := 0b10101, d := 0b10101_1000000000000000_1111_1010, wr := true }) =
        .ok (.fldChk ⟨21, 0x8000, 15, ⟨false, true, false, true⟩⟩ true) := by decide

theorem test_decode_conversions :
    decode (.op5 { op := 0b11000, raw := 0x1000 }) = .ok (.cnvAngle 0x1000) ∧
      decode (.op5 { op := 0b11001, raw := 0x01F4 }) = .ok (.cnvRevol 0x01F4) ∧
      decode (.op5 { op := 0b11010, raw := 0x01F5 }) = .ok (.cnvTemp 0x01F5) ∧
      decode (.op5 { op := 0b11011, v := 128 }) = .ok (.cnvRange 128) ∧
      decode (.op5 { op := 0b11100, rng := .posInf, raw := 5, v := 3, pred := true }) =
        .ok (.cnvSpeed .posInf 5 3 true) := by decide

theorem test_decode_reserved_codes :
    decode (.op5 { op := 0b00110 }) = .ok .reserved06 ∧
      decode (.op5 { op := 0b00111 }) = .ok .reserved07 ∧
      decode (.op5 { op := 0b01101 }) = .ok .reserved0D ∧
      decode (.op5 { op := 0b01110 }) = .ok .reserved0E ∧
      decode (.op5 { op := 0b01111 }) = .ok .reserved0F ∧
      decode (.op5 { op := 0b10110 }) = .ok .reserved16 ∧
      decode (.op5 { op := 0b10111 }) = .ok .reserved17 ∧
      decode (.op5 { op := 0b11101 }) = .ok .reserved1D ∧
      decode (.op5 { op := 0b11110 }) = .ok .reserved1E ∧
      decode (.op5 { op := 0b11111 }) = .ok .reserved1F := by decide

/-- `rw cls upd addr nd` (R50); `r s i a dddd cccccccc` (R57). The last word has neither form (R55). -/
theorem test_decode_wire_words :
    decode (.cmd16 0b1_0000_1_110000_1111) = .ok (.cmdRead true 0x30 15) ∧
      decode (.cmd16 0b0_1010_0_001111_0001) = .ok (.cmdWrite false 0x0F 1) ∧
      decode (.safety16 0b1_0_1_1_0011_10100101) =
        .ok (.safetyWord true false true true 3 0xA5) ∧
      decode (.cmd16 0b1_0001_0_000000_0000) = .error (.unknownCommandForm 0x8800) := by decide

theorem test_decodeTableWord :
    decodeTableWord 8 0x14 = some .blockCrc ∧
      decodeTableWord 16 0x8021 = some (.cmdRead false 2 1) ∧
      decodeTableWord 16 0x50F1 = some (.cmdWrite false 15 1) ∧
      decodeTableWord 16 0x7067 = some (.safetyWord false true true true 0 0x67) := by decide

/-- The very next step runs the placed instruction. -/
theorem test_withFetchWord :
    step (State.reset.withFetchWord 8 0x14) = exec .blockCrc State.reset ∧
      step (State.reset.withFetchWord 16 0x8021) = exec (.cmdRead false 2 1) State.reset :=
  ⟨rfl, rfl⟩

/-! ### One operation each (spec/95_test_vectors.md) -/

/-- The state after one operation from reset. -/
def after (i : Instr) : State := runOperation i State.reset

/-- A block whose slots 8 to 15 hold the given words. -/
def blockState (ws : List Word) : State :=
  { State.reset with
    regcache := Vector.ofFn fun k => if 8 ≤ k.val then ws.getD (k.val - 8) 0 else 0 }

/-- The block of V-BLK-2. -/
def sampleBlock : State :=
  blockState [0x0804, 0x8000, 0x1230, 0xFFF0, 0x0010, 0x0FF3, 0x1234, 0xABCD]

/-- V-OFF-6, V-OFF-9, V-OFF-10. -/
theorem test_regoff : (after (.regoff 18)).outs = { out := 0x0140 } ∧
    (after (.regoff 21)).outs = { out := 0x0300 } ∧
    (after (.regoff 22)).outs = { st := .illegalOp } := by decide

/-- V-RD-8, V-RD-9, V-RD-12, V-RD-15. -/
theorem test_buildRd : (after (.buildRd 8 false true 8)).outs = { out := 0x8089, rxn := 10 } ∧
    (after (.buildRd 21 true true 15)).outs = { out := 0x870F, rxn := 16 } ∧
    (after (.buildRd 2 false true 2)).outs = { out := 0x8023, rxn := 4 } ∧
    (after (.buildRd 22 false true 1)).outs = { st := .illegalOp } := by decide

/-- V-WR-3, V-WR-4, V-WR-7. -/
theorem test_buildWr : (after (.buildWr 21 true)).outs = { out := 0x5301 } ∧
    (after (.buildWr 8 false)).outs = { out := 0x5080 } ∧
    (after (.buildWr 31 true)).outs = { st := .illegalOp } := by decide

/-- V-DC-4, V-DC-7. -/
theorem test_decCmd :
    (after (.decCmd 0x870F)).outs =
      { fields := .cmd ⟨true, 0, true, 0x30, 15, true, .read, true, 21⟩, rxn := 16 } ∧
      (after (.decCmd 0xFFFF)).outs =
        { fields := .cmd ⟨true, 0xF, true, 0x3F, 15, true, .other, false, 0⟩ } := by decide

/-- V-DC-5, V-DC-8: an address outside the map; a write word with the update bit. -/
theorem test_decCmd_unmapped_and_write :
    (after (.decCmd 0x8121)).outs =
      { fields := .cmd ⟨true, 0, false, 0x12, 1, true, .read, false, 0⟩, rxn := 2 } ∧
      (after (.decCmd 0x5400)).outs =
        { fields := .cmd ⟨false, 0xA, true, 0, 0, false, .write, true, 0⟩ } := by decide

/-- V-DS-5. -/
theorem test_decSafe :
    (after (.decSafe 0xB3A5)).outs = { fields := .safety ⟨true, false, true, true, 3, 0xA5⟩ } ∧
      (after (.decSafe 0xB3A5)).safetyLast = none := by decide

/-- V-CRC-6, V-CRC-22. -/
theorem test_crc8_check_string :
    crc8 [0x31, 0x32, 0x33, 0x34, 0x35, 0x36, 0x37, 0x38, 0x39] = 0x4B ∧
      crc8 [0xFF, 0xFF, 0xFF, 0xFF] = 0x74 := by decide +kernel

/-- V-STR-3, V-STR-4, V-STR-6, V-STR-7. -/
theorem test_streaming :
    (after .crcInit).crcAcc = 0xFF ∧ (after (.crcByte 0x80)).crcAcc = 0xE2 ∧
      (runOperation (.crcByte 0x21) (after (.crcByte 0x80))).crcAcc = 0x12 ∧
      (runOperation .crcRead (runOperations (streamTransaction 0x8021 [0x1000])
        State.reset)).outs.out = 0x0067 := by decide +kernel

/-- V-STR-10: a word is absorbed high byte first. -/
theorem test_crcWord : (after (.crcWord 0x8421)).crcAcc = 0x3F := by decide +kernel

/-- V-CHK-1, V-CHK-5, V-CHK-8, V-CHK-10, V-CHK-12. -/
theorem test_check_codes :
    (after (.check 0x7067 0x8021 [0x1000])).outs = {} ∧
      (after (.check 0x7066 0x8021 [0x1000])).outs = { st := .crcError, resetReq := true } ∧
      (after (.check 0x3067 0x8021 [0x1000])).outs = { st := .systemError, resetReq := true } ∧
      (after (.check 0x4067 0x8021 [0x1000])).outs = { st := .interfaceAccessError } ∧
      (after (.check 0x6067 0x8021 [0x1000])).outs = { st := .invalidAngleError } := by decide +kernel

/-- V-CHK-5, V-CHK-9, V-CHK-21: what the check records. -/
theorem test_check_records :
    (after (.check 0x7066 0x8021 [0x1000])).crcAcc = 0x98 ∧
      (after (.check 0x0000 0x8021 [0x1000])).crcAcc = 0xFF ∧
      (after (.check 0x0000 0x8021 [0x1000])).safetyLast = some 0x0000 ∧
      (after (.check 0x7098 0x800F (List.replicate 15 0))).outs.st = .ok := by decide +kernel

/-- Section 2.4, `CACHE_WR` and `CACHE_RD`. -/
theorem test_cacheWr : (after (.cacheWr 5 0xBEEF)).slot 5 = 0xBEEF ∧
    (after (.cacheWr 5 0xBEEF)).slot 4 = 0 ∧ (after (.cacheWr 5 0xBEEF)).slot 6 = 0 ∧
    (after (.cacheWr 21 1)).slot 21 = 1 ∧
    (after (.cacheWr 22 1)).outs.st = .illegalOp := by decide

theorem test_cacheRd :
    (runOperation (.cacheRd 5) (after (.cacheWr 5 0xBEEF))).outs = { out := 0xBEEF } ∧
      (after (.cacheRd 31)).outs = { st := .illegalOp } := by decide

/-- V-ACC-3, V-ACC-6, V-ACC-7, and the index test first. -/
theorem test_fldChk :
    (after (.fldChk ⟨8, 0x7FF0, 4, ⟨false, true, false, false⟩⟩ false)).outs.st = .accessDenied ∧
      (after (.fldChk ⟨8, 0x7FF0, 4, ⟨true, true, true, false⟩⟩ false)).outs =
        { needTrigger := true, inCrcBlock := true } ∧
      (after (.fldChk ⟨8, 0x7FF0, 4, ⟨true, true, true, false⟩⟩ true)).outs =
        { inCrcBlock := true } ∧
      (after (.fldChk ⟨8, 0x7FF0, 4, ⟨true, true, false, true⟩⟩ true)).outs.st = .accessDenied ∧
      (after (.fldChk ⟨22, 0x7FF0, 4, ⟨false, false, false, false⟩⟩ true)).outs =
        { st := .illegalOp } := by decide

/-- V-GET-1, V-GET-7. -/
theorem test_fldGet :
    (after (.fldGet ⟨2, 0x7FFF, 0, ⟨true, false, true, false⟩⟩ 0x9000)).outs =
      { out := 0x1000 } ∧
      (after (.fldGet ⟨2, 0x7FFF, 0, ⟨true, false, true, false⟩⟩ 0x9000)).slot 2 = 0x9000 ∧
      (after (.fldGet ⟨2, 0x0FF0, 6, ⟨true, false, false, false⟩⟩ 0xABCD)).outs.out =
        0x002F := by decide

/-- V-FLD-1, V-FLD-11. -/
theorem test_fldSet :
    (runOperation (.fldSet ⟨8, 0x7FF0, 4, ⟨true, true, false, false⟩⟩ 0x0040)
      (blockState [0x0804])).outs = { out := 0x0404, inCrcBlock := true } ∧
      (runOperation (.fldSet ⟨7, 0x0060, 4, ⟨true, true, false, false⟩⟩ 0x0001)
        (after (.cacheWr 7 0xFFFF))).outs = { out := 0xFF9F } := by decide

/-- V-BLK-1, V-BLK-2. -/
theorem test_blockCrc :
    (after .blockCrc).slot 15 = 0x0095 ∧ (after .blockCrc).crcAcc = 0x6A ∧
      (runOperation .blockCrc sampleBlock).outs = { out := 0xABF5 } ∧
      (runOperation .blockCrc sampleBlock).crcAcc = 0x0A := by decide +kernel

/-- V-ANG-3, V-ANG-6, V-ANG-11: the reference values before `NUM`. -/
theorem test_cnvAngle : angleDegrees 0x1000 = .finite 45 ∧
    angleDegrees 0x4000 = .finite (-180) ∧ angleDegrees 0xFFFF = .finite (-45 / 4096) ∧
    sext15 0xFFFF = -1 := by decide +kernel

/-- V-ANG-3: the ports. -/
theorem test_cnvAngle_ports : (after (.cnvAngle 0x1000)).outs.si = 4096 ∧
    (after (.cnvAngle 0x1000)).outs.qc = .finite ∧
    (after (.cnvAngle 0x1000)).outs.q = Config.num (angleDegrees 0x1000) :=
  ⟨by decide, by decide, rfl⟩

/-- V-REV-4, V-REV-6. -/
theorem test_cnvRevol : (after (.cnvRevol 0x0100)).outs = { si := -256, out := 0xFF00 } ∧
    (after (.cnvRevol 0x01F4)).outs = { si := -12, out := 0xFFF4 } := by decide

/-- V-TMP-2, V-TMP-5, V-TMP-7. -/
theorem test_cnvTemp : temperatureCelsius 0x01F4 = .finite (17500 / 347) ∧
    temperatureCelsius 0x0100 = .finite (-13000 / 347) ∧
    temperatureCelsius 0x0168 = .finite 0 := by decide +kernel

/-- V-RNG-6, V-RNG-8, V-RNG-9. -/
theorem test_cnvRange : rangeDegrees 100 = .finite (2304 / 5) ∧
    rangeDegrees 65535 = .finite (3072 / 4369) ∧ (after (.cnvRange 0)).outs.qc = .posInf ∧
    (after (.cnvRange 0)).outs.st = .ok := by decide +kernel

/-- V-SPD-2, V-SPD-5, V-SPD-14. -/
theorem test_cnvSpeed :
    speedDegreesPerSecond (.finite 360) 0x0001 0 true = .finite (390625 / 2272) ∧
      speedDegreesPerSecond (.finite 360) 0x4000 3 true = .finite (-300000000 / 853) ∧
      speedDegreesPerSecond (.finite 720) 0x0100 1 false = .finite (28125000 / 427) := by
  decide +kernel

/-- R151: the codes on the port `qc`, after an angle and after the range of a zero field. -/
theorem test_class_codes : QClass.finite.toBits = 0b00 ∧ QClass.posInf.toBits = 0b01 ∧
    QClass.negInf.toBits = 0b10 ∧ QClass.nan.toBits = 0b11 ∧
    (after (.cnvAngle 0x1000)).outs.qc.toBits = 0b00 ∧
    (after (.cnvRange 0)).outs.qc.toBits = 0b01 := by decide

/-- V-SPD-9, V-SPD-10, V-SPD-11, V-SPD-15, V-SPD-16, V-SPD-17. -/
theorem test_cnvSpeed_classes :
    speedDegreesPerSecond (.finite 360) 0x0001 4 false = .posInf ∧
      speedDegreesPerSecond (.finite 360) 0x7FFF 4 false = .negInf ∧
      speedDegreesPerSecond (.finite 360) 0x0000 4 false = .nan ∧
      speedDegreesPerSecond .posInf 0x0001 0 false = .posInf ∧
      speedDegreesPerSecond .posInf 0x0000 0 false = .nan ∧
      speedDegreesPerSecond (.finite 0) 0x0001 4 false = .nan := by decide +kernel

/-- Section 2.6, and the idle step. -/
theorem test_nop_and_reserved : exec .nop State.reset = .next State.reset ∧
    step State.reset = .next State.reset ∧
    (after .reserved1F).outs = { st := .illegalOp } := ⟨rfl, rfl, rfl⟩

/-- V-DC-1, V-DC-2, V-DS-2, on the wire words offered as instructions. -/
theorem test_wire_words :
    (after (.cmdRead false 0x02 1)).outs =
      { fields := .cmd ⟨true, 0, false, 0x02, 1, true, .read, true, 2⟩, rxn := 2 } ∧
      (after (.cmdWrite false 0x0F 1)).outs =
        { fields := .cmd ⟨false, 0xA, false, 0x0F, 1, true, .write, true, 15⟩, rxn := 1 } ∧
      (after (.safetyWord false true false false 0 0x67)).outs =
        { fields := .safety ⟨false, true, false, false, 0, 0x67⟩ } := by decide

/-- V-TMP-3, V-RNG-2, binary64 column: the first is one unit in the last place off the nearest value. -/
theorem test_binary64 :
    temperatureBinary64 0x0001 ≠ roundQuantity64 (temperatureCelsius 0x0001) ∧
      rangeBinary64 64 = .finite 720 := by decide +kernel

/-! ### Host sequences (programs P1, P2, P4) -/

/-- A Facade after `begin`, on the reset block, before a Transport Port with these answers. -/
def host (answers : List Answer) : Facade :=
  { Facade.construct answers with life := .ready }

/-- The code a sequence returns. -/
def codeOf {α : Type} : HostOutcome α → Option ResultCode
  | .done st _ _ => some st
  | .blocked _ | .notAllowed => none

/-- The Facade a sequence leaves. -/
def left {α : Type} (f : Facade) : HostOutcome α → Facade
  | .done _ _ g => g
  | .blocked g => g
  | .notAllowed => f

/-- P1 (a), (b). -/
theorem test_read_angle :
    codeOf (readRegister params 2 false (host [.success [0x1000, 0x7067]])) = some .ok ∧
      (left (host []) (readRegister params 2 false
        (host [.success [0x1000, 0x7067]]))).block.slot 2 = 0x1000 ∧
      codeOf (readRegister params 2 false (host [.success [0x1000, 0x4067]])) =
        some .interfaceAccessError := by decide +kernel

/-- P4: the CRC error, the recovery, the retry. -/
theorem test_recovery :
    let first := readRegister params 2 false (host [.success [0x1000, 0x7066], .success [],
      .success [0x0000, 0x30E3], .success [0x1000, 0x7067]])
    let second := readRegister params 2 false (left (host []) first)
    codeOf first = some .crcError ∧ (left (host []) first).life = .faulted ∧
      codeOf second = some .ok ∧ (left (host []) second).life = .ready ∧
      (left (host []) second).wire = [.exchange [0x8021] (some [0x1000, 0x7066]), .trigger true,
        .exchange [0x8001] (some [0x0000, 0x30E3]),
        .exchange [0x8021] (some [0x1000, 0x7067])] := by decide +kernel

/-- P2: the field is set, the block read back, its CRC written. -/
theorem test_set_field_and_regenerate :
    let run := setBitField params blockField 0x0040
      { host [.success [0x70FE],
          .success [0x0404, 0x8000, 0x1230, 0xFFF0, 0x0010, 0x0FF3, 0x1234, 0xABF5],
          .success [0x70B9], .success [0x0000, 0x70E3]] with block := sampleBlock.toBlock }
    codeOf run = some .ok ∧ (left (host []) run).block.slot 8 = 0x0404 ∧
      (left (host []) run).block.slot 15 = 0xABDC ∧ (left (host []) run).block.crcAcc = 0x1C ∧
      (left (host []) run).block.safetyLast = some 0x70E3 := by decide +kernel

/-! ### Witnesses: states and operands that meet the hypotheses of the statements -/

/-- A state with these invocations offered. -/
def offering (is : List Instr) : State := { State.reset with offers := is.map encode }

/-- A frame whose CRC is wrong (V-CHK-5). -/
def badCheck : Instr := .check 0x7066 0x8021 [0x1000]

/-- `EveryStepLeavesShapedRecordedOutputs`. -/
theorem witness_EveryStep : (offering [badCheck]).outs.Shaped ∧ (offering [badCheck]).Recorded ∧
    step (offering [badCheck]) = .next (after badCheck) :=
  ⟨by decide, by simp [State.Recorded, offering, State.reset], rfl⟩

/-- `StepRunsTheOfferedInstruction`: an offer, no offer, a well-formed `CHECK` with 15 words. -/
theorem witness_StepRuns : (offering [.crcRead, .nop]).offers = encode .crcRead :: [encode .nop] ∧
    decode (encode .crcRead) = .ok .crcRead ∧ State.reset.offers = [] ∧
    (Instr.check 0x7098 0x800F (List.replicate 15 0)).wellFormed = true := by decide

/-- `OnlyUnknownCommandFormsAreRefused`: the words on both sides of each form. -/
theorem witness_Refused :
    step (State.reset.withOffer (.cmd16 0x8800)) = .refused (.unknownCommandForm 0x8800) ∧
      step (State.reset.withOffer (.cmd16 0x7FFF)) = .refused (.unknownCommandForm 0x7FFF) ∧
      step (State.reset.withOffer (.cmd16 0x5800)) = .refused (.unknownCommandForm 0x5800) ∧
      step (State.reset.withOffer (.cmd16 0x4FFF)) = .refused (.unknownCommandForm 0x4FFF) ∧
      step (State.reset.withOffer (.cmd16 0x87FF)) = exec (.cmdRead true 0x3F 15) State.reset :=
  ⟨rfl, rfl, rfl, rfl, rfl⟩

/-- `DecodeOfEncodeIsTheInstruction`, at the largest payload and an ill-formed index. -/
theorem witness_DecodeOfEncode :
    (Instr.check 0xFFFF 0x8021 (List.replicate 15 0xFFFF)).wellFormed = true ∧
      (Instr.cacheRd 31).wellFormed = true := by decide

/-- `WireWordsAreReadWhole`: a command word of each form at its top, a safety word, a selector. -/
theorem witness_WireWords : decode (.cmd16 0x87FF) = .ok (.cmdRead true 0x3F 15) ∧
    decode (.cmd16 0x57FF) = .ok (.cmdWrite true 0x3F 15) ∧
    decode (.op5 { op := 0x1F }) = .ok .reserved1F := by decide

/-- The clauses over an index, 21 and 22, and over a selector code:
`RegoffReturnsTheMappedOffset`, `BuildReadComposesTheWord`, `BuildWriteComposesTheWord`,
`DecodingABuiltReadRecoversItsParts`, `DecodedSafetyFlagIsTheOneGiven`,
`BuiltWritesDecodeAndEvenLengthsRoundUp`, `CacheWritesOneSlotAndReadsItBack`. -/
theorem witness_index_bounds : (21 : BitVec 5).toNat ≤ 21 ∧ 21 < (22 : BitVec 5).toNat ∧
    (21 : BitVec 5).toNat = (21 : RegIndex).val := by decide

theorem witness_selector_codes : ({ op := 0x01 } : Ports).op = 0x01 ∧
    ({ op := 0x1C } : Ports).op = 0x1C ∧ idleOffer = .op5 { op := 0x00 } := by decide

/-- `DecodeCommandReturnsTheFields`: an address in the map at its end, and the next one outside. -/
theorem witness_DecodeCommand : (commandFields 0x8301).riValid = true ∧
    (commandFields 0x8311).riValid = false ∧ (commandFields 0x8301).kind = .read ∧
    (commandFields 0x5301).kind = .write ∧ (commandFields 0xFFFF).kind = .other := by decide

/-- `CrcIsLinearAndSeesEverySingleBit`: equal lengths; the highest bit. -/
theorem witness_CrcLinear : [0x80, 0x21].length = [0x10, 0x00].length ∧ 7 < 8 ∧
    crc8 ([(0x80 : Byte)] ++ ((0x21 : Byte) ^^^ (1 <<< 7)) :: []) ≠
      crc8 ([(0x80 : Byte)] ++ (0x21 : Byte) :: []) := by
  decide +kernel

/-- `CheckFollowsItsOrderedTests`, `CheckAcceptsExactlyTheRightCrc`, `StreamingAgreesWithOneShot`: status
bits, the right CRC and a wrong one, 15 payload words. -/
theorem witness_Check : (0x7067 : Word)[14] = true ∧ (0x7067 : Word)[13] = true ∧
    (0x7067 : Word)[12] = true ∧ lo8 0x7067 = crc8 (txBytes 0x8021 [0x1000]) ∧
    lo8 0x7066 ≠ crc8 (txBytes 0x8021 [0x1000]) ∧
    (List.replicate 15 (0 : Word)).length ≤ 15 := by decide +kernel

/-- `CheckIgnoresTheUnexaminedBits` (V-CHK-1, V-CHK-4). -/
theorem witness_CheckIgnores : (0x7067 : Word) &&& 0x70FF = 0xFF67 &&& 0x70FF ∧
    (0x7067 : Word)[14] = true ∧ (0x7067 : Word)[13] = true ∧ (0x7067 : Word)[12] = true := by
  decide

/-- `FieldCheckEvaluatesTheRights`, `FieldGetCachesAndExtracts`, `FieldSetInsertsIntoTheCachedWord`: an
index above 21; denied at index 21, reserved and lacking the right; allowed at the edges. -/
theorem witness_FieldClauses :
    21 < (Descriptor.mk 22 1 0 ⟨true, true, false, false⟩).reg.toNat ∧
      ((Descriptor.mk 21 1 0 ⟨true, true, false, true⟩).reg.toNat ≤ 21 ∧
        (Descriptor.mk 21 1 0 ⟨true, true, false, true⟩).acc.res = true) ∧
      (Descriptor.mk 21 1 0 ⟨false, false, true, false⟩).acc.r = false ∧
      ((Descriptor.mk 21 1 0 ⟨true, true, false, false⟩).reg.toNat = (21 : RegIndex).val ∧
        (Descriptor.mk 21 1 0 ⟨true, true, false, false⟩).acc.r = true ∧
        (Descriptor.mk 21 1 0 ⟨true, true, false, false⟩).acc.w = true ∧
        (Descriptor.mk 21 1 0 ⟨true, true, false, false⟩).acc.res = false) := by decide

/-- `BitFieldRoundTrip`. -/
theorem witness_RoundTrip : blockField.WellFormed ∧ blockField.acc.res = false ∧
    blockField.acc.r = true ∧ blockField.acc.w = true ∧
    blockField.reg.toNat = (8 : RegIndex).val := by decide

/-- `BlockCrcEstablishesTheBlockInvariant`: two caches that differ in the low byte of slot 15 only. -/
theorem witness_BlockCrcInput :
    (∀ k : RegIndex, k ≠ 15 →
      (blockState [0x0804]).slot k = ((blockState [0x0804]).setSlot 15 0x00FF).slot k) ∧
      hi8 ((blockState [0x0804]).slot 15) =
        hi8 (((blockState [0x0804]).setSlot 15 0x00FF).slot 15) := by decide +kernel

/-- `GoodBlockLeavesAFixedResidue` (V-BLK-2, V-BLK-3). -/
theorem witness_GoodBlock :
    (blockState [0x0804, 0x8000, 0x1230, 0xFFF0, 0x0010, 0x0FF3, 0x1234, 0xABF5]).BlockCrcHolds ∧
      (blockState
        [0x0404, 0x8000, 0x1230, 0xFFF0, 0x0010, 0x0FF3, 0x1234, 0xABDC]).BlockCrcHolds := by
  unfold Block.BlockCrcHolds
  decide +kernel

/-- `AngleRangeConversion` and `SpeedConversion`: the clauses at `v = 0, 1`, at `v = 3, 4`, and for the
three signs of the raw speed. -/
theorem witness_Conversions : (1 : Word) ≠ 0 ∧ (3 : Word).toNat ≤ 3 ∧ 3 < (4 : Word).toNat ∧
    0 < sext15 0x3FFF ∧ sext15 0x4000 < 0 ∧ sext15 0x8000 = 0 ∧
    Quantity.finite 360 ≠ .posInf := by decide +kernel

/-- `OnlyTheNamedOperationsWrite`: a slot beside the one written. -/
theorem witness_OnlyNamed :
    exec (.cacheWr 5 0xBEEF) State.reset = .next (after (.cacheWr 5 0xBEEF)) ∧
      (Instr.cacheWr 5 0xBEEF).writesSlot 6 = false ∧
      (Instr.cacheWr 5 0xBEEF).writesCrcAcc = false ∧
      (Instr.cacheWr 5 0xBEEF).writesSafetyLast = false := ⟨rfl, by decide, rfl, rfl⟩

/-- `DeniedAndIllegalInvocationsWriteNothing`, `EachCodeComesFromItsOperations`: each code. -/
theorem witness_Codes :
    exec (.fldGet ⟨21, 1, 0, ⟨false, true, false, false⟩⟩ 5) State.reset =
      .next { State.reset with outs := { st := .accessDenied } } ∧
      exec (.cacheWr 22 5) State.reset = .next { State.reset with outs := { st := .illegalOp } } ∧
      (after badCheck).outs.st = .crcError := ⟨rfl, rfl, by decide +kernel⟩

/-- `ResultsDependOnCacheAndAccumulatorOnly`: two states that differ in `SAFETY_LAST`, and two that
differ in `CRC_ACC`. -/
theorem witness_ResultsDepend :
    State.reset.regcache = { State.reset with safetyLast := some 0x7067 }.regcache ∧
      State.reset.crcAcc = { State.reset with safetyLast := some 0x7067 }.crcAcc ∧
      exec .crcRead { State.reset with safetyLast := some 0x7067 } =
        .next (runOperation .crcRead { State.reset with safetyLast := some 0x7067 }) ∧
      State.reset.regcache = (State.reset.setCrcAcc 0).regcache ∧
      (0x7067 : Word) &&& 0x7000 = 0x7000 := ⟨rfl, rfl, rfl, rfl, by decide⟩

/-- `SafetyLastIsNeverCleared` and `UntouchedSlotSurvivesARun`: runs of two steps. -/
theorem witness_Runs :
    Host.Core.run Sys2Proof.core 2
        { offering [.crcInit, .cacheWr 5 1] with safetyLast := some 0x7067 } =
      .next (runOperation (.cacheWr 5 1) { State.reset with safetyLast := some 0x7067 }) ∧
      (∀ o ∈ (offering [.crcInit, .cacheWr 5 1]).offers, ∀ i, decode o = .ok i →
        i.writesSlot 6 = false) := by
  refine ⟨rfl, ?_⟩
  intro o ho i hi
  have h : o = encode .crcInit ∨ o = encode (.cacheWr 5 1) := by simpa [offering] using ho
  rcases h with rfl | rfl
  · cases hi
    decide
  · cases hi
    decide

/-- `DeniedFieldAccessMakesNoExchange`: index 21, without the read right, without the write right. -/
theorem witness_DeniedField : (host []).usable = true ∧
    (Descriptor.mk 21 1 0 ⟨false, false, false, false⟩).reg.toNat ≤ 21 ∧
    (Descriptor.mk 21 1 0 ⟨false, false, false, false⟩).readable = false ∧
    (Descriptor.mk 21 1 0 ⟨false, false, false, false⟩).writable = false := by decide

/-- `FieldReadReturnsTheField`: P5's read with the trigger, and a read without it. -/
theorem witness_FieldRead :
    (host [.success [], .success [0x9000, 0x70E0]]).life = .ready ∧
      angleField.reg.toNat = (2 : RegIndex).val ∧ angleField.readable = true ∧
      (host [.success [], .success [0x9000, 0x70E0]]).answers =
        (if angleField.acc.u then [.success []] else []) ++ .success [0x9000, 0x70E0] :: [] ∧
      (0x8421 : Word).toNat = 0x8001 + (if angleField.acc.u then 0x0400 else 0) +
        16 * sensorAddress angleField.reg ∧
      (0x70E0 : Word) &&& 0x7000 = 0x7000 ∧ lo8 0x70E0 = crc8 (txBytes 0x8421 [0x9000]) := by
  decide +kernel

theorem witness_FieldRead_without_trigger :
    blockField.acc.u = false ∧ blockField.readable = true ∧
      (0x8081 : Word).toNat = 0x8001 + (if blockField.acc.u then 0x0400 else 0) +
        16 * sensorAddress blockField.reg ∧
      codeOf (getBitField params blockField
        (host [.success [0x0804, 0x7000 ||| (crc8 (txBytes 0x8081 [0x0804])).zeroExtend 16]])) =
        some .ok := by decide +kernel

/-- `FailedFieldReadCachesNothing`, `GettersReturnZeroOnError`: a sequence that returns another code. -/
theorem witness_FailedRead :
    codeOf (getBitField params angleField
      (host [.success [], .success [0x9000, 0x70E1]])) = some .crcError ∧
      codeOf (getAngleValue params (host [.success [0x1000, 0x4067]])) =
        some .interfaceAccessError ∧
      codeOf (speedGetter params (.register 3 true) (.register 6 false) (.field blockField)
        (.field blockField) (host [.failure])) = some .transportError := by decide +kernel

/-- `ResetSafetyTouchesNoBlockState`: both calls answered; a call that fails. -/
theorem witness_ResetSafety : (host [.success [], .success [0, 0x30E3]]).usable = true ∧
    codeOf (resetSafety params (host [.success [], .success [0, 0x30E3]])) = some .ok ∧
    codeOf (resetSafety params (host [.failure])) = some .transportError := by decide +kernel

/-- `FaultedHostResetsBeforeItsRead`, `TransportFailureEndsTheRead`: each call of the read failing. -/
theorem witness_Faulted :
    let read := fun answers => readRegister params 2 false { host answers with life := .faulted }
    codeOf (read [.success [], .success [], .success [0x1000, 0x7067]]) = some .ok ∧
      codeOf (read [.failure]) = some .transportError ∧
      codeOf (read [.success [], .failure]) = some .transportError ∧
      (left (host []) (read [.success [], .failure])).life = .faulted ∧
      codeOf (read [.success [], .success [], .failure]) = some .transportError ∧
      (left (host []) (read [.success [], .success [], .failure])).life = .ready ∧
      codeOf (readRegister params 2 false (host [.failure])) = some .transportError := by
  decide +kernel

/-- The answer `data` with the safety word the sensor sends when all is well. -/
def goodFrame (cmd : Word) (data : List Word) : Answer :=
  .success (data ++ [0x7000 ||| (crc8 (txBytes cmd data)).zeroExtend 16])

/-- The answers of one pass of P2, with this status. -/
def passAnswers (stat : Word) : List Answer :=
  [.success [0x0404, 0x8000, 0x1230, 0xFFF0, 0x0010, 0x0FF3, 0x1234, 0xABF5], .success [0x70B9],
    goodFrame 0x8001 [stat]]

/-- `RegenerationLeavesTheBlockInvariant`: one pass, one retry, and two retries without a bound. -/
theorem witness_Regeneration :
    codeOf (regenerateCrc params (host (passAnswers 0))) = some .ok ∧
      codeOf (regenerateCrc params (host (passAnswers 0x8000 ++ passAnswers 0))) = some .ok ∧
      codeOf (regenerateCrc { params with regenRetry := none }
        (host (passAnswers 0x8000 ++ passAnswers 0x8000 ++ passAnswers 0))) = some .ok := by
  decide +kernel

/-- R134: a bound of one retry returns with the write still pending; without a bound the run goes on until
the answers end. -/
theorem test_unbounded_retry :
    codeOf (regenerateCrc params (host (passAnswers 0x8000 ++ passAnswers 0x8000))) = some .ok ∧
      codeOf (regenerateCrc { params with regenRetry := none }
        (host (passAnswers 0x8000 ++ passAnswers 0x8000))) = none := by decide +kernel

/-- `RegisterMapFillsEverySlot`: the four reads of `params`, each slot the number of its address plus one. -/
theorem witness_RegisterMap :
    let word : Nat → Word := fun a => BitVec.ofNat 16 (a + 1)
    let run := readRegisterMap params (host [.success ((List.range 14).map word),
      .success ((List.range 8).map fun k => word (14 + k)), goodFrame 0x8201 [word 0x20],
      goodFrame 0x8301 [word 0x30]])
    params.WellFormed ∧ codeOf run = some .ok ∧ (left (host []) run).block.slot 17 = 0x12 ∧
      (left (host []) run).block.slot 18 = 0x15 ∧ (left (host []) run).block.slot 21 = 0x31 := by
  decide +kernel

/-- `FailedWriteKeepsTheInsertedField`: just below and just above the block, with an error. -/
theorem witness_FailedWrite :
    (∀ k ∈ ([7, 16] : List RegIndex), ¬ (8 ≤ k.val ∧ k.val ≤ 15)) ∧
      codeOf (setBitField params ⟨7, 1, 0, ⟨false, true, false, false⟩⟩ 1
        (host [.success [0x7000]])) = some .crcError ∧
      codeOf (setBitField params ⟨16, 1, 0, ⟨false, true, false, false⟩⟩ 1 (host [.failure])) =
        some .transportError := by decide +kernel

/-- `LifecycleGuardsTheSequences`: before `begin`, after `end`, and `end` itself. -/
theorem witness_Lifecycle : (Facade.construct []).life = .uninitialized ∧
    (left (host []) (endSession (host [.success []]))).life = .ended ∧
    (host [.success []]).usable = true ∧ (host []).life ≠ .uninitialized := by decide

/-- The code and the class a getter returns. -/
def classOf : HostOutcome Measurement → Option (ResultCode × QClass × Int)
  | .done st m _ => some (st, m.qc, m.si)
  | .blocked _ | .notAllowed => none

/-- R136, R151, R153 (V-REV-6, V-RNG-9): a getter passes the class and the integer on. -/
theorem test_getters :
    classOf (getRevolutions params (.register 4 false) (host [goodFrame 0x8041 [0x01F4]])) =
      some (.ok, .finite, -12) ∧
      classOf (getAngleRange params (.register 8 false) (host [goodFrame 0x8081 [0]])) =
        some (.ok, .posInf, 0) ∧
      classOf (getAngleValue params (host [goodFrame 0x8021 [0x1000]])) =
        some (.ok, .finite, 4096) ∧
      classOf (getAngleValue params (host [.success [0x1000, 0x4067]])) =
        some (.interfaceAccessError, .finite, 0) := by decide +kernel

/-- The code and the words a list of reads returns. -/
def wordsOf : HostOutcome (List Word) → Option (ResultCode × List Word)
  | .done st ws _ => some (st, ws)
  | .blocked _ | .notAllowed => none

/-- `GettersReturnZeroOnError`: the four inputs of a speed getter read `OK`, with a range field of zero and
of 128; the class of the first is seen (V-SPD-15). -/
theorem witness_Speed :
    let inputs : List GetterInput :=
      [.register 3 true, .register 8 false, .register 6 false, .register 14 false]
    let answers : Word → List Answer := fun v =>
      [goodFrame 0x8431 [1], goodFrame 0x8081 [v], goodFrame 0x8061 [0], goodFrame 0x80E1 [1]]
    wordsOf (readInputs params inputs (host (answers 0))) = some (.ok, [1, 0, 0, 1]) ∧
      wordsOf (readInputs params inputs (host (answers 128))) = some (.ok, [1, 128, 0, 1]) ∧
      classOf (speedGetter params (.register 3 true) (.register 8 false) (.register 6 false)
        (.register 14 false) (host (answers 0))) = some (.ok, .posInf, 1) := by decide +kernel

/-- `StickyErrorsFailLaterChecks`: a frame with bit 13 low, a trigger and a configuration read, a later
frame. -/
theorem witness_Sticky :
    let c : WireCall := .exchange [0x8021] (some [0x1000, 0x5067])
    let m : List WireCall := [.trigger true, .exchange [0x8088] (some (List.replicate 8 0))]
    let d : WireCall := .exchange [0x8021] (some [0x1000, 0x4067])
    latchHolds (c :: m ++ d :: []) 0 = true ∧ (∀ e ∈ c :: m, e.mayRereadStatus = false) ∧
      c.safetyWord? = some 0x5067 ∧ (0x5067 : Word) &&& 0x7000 ≠ 0x7000 ∧
      d.safetyWord? = some 0x4067 := by decide +kernel

/-- What the premises leave open: a failed call, a word of neither form, an unmapped address. -/
theorem test_premises_demand_nothing :
    (WireCall.exchange [0x8021] none).mayRereadStatus = true ∧
      (WireCall.exchange [0x8801] (some [0])).safetyWord? = none ∧
      (WireCall.exchange [0x8121] (some [0, 0])).safetyWord? = none ∧
      snapshotHolds (fun _ => true) [.exchange [0x8421] (some [1, 0]),
        .exchange [0x8421] (some [2, 0])] none = true ∧
      snapshotHolds (fun _ => true) [.trigger true, .exchange [0x8421] (some [1, 0]),
        .trigger false, .exchange [0x8421] (some [2, 0])] none = true ∧
      snapshotHolds (fun _ => true) [.trigger true, .exchange [0x8421] (some [1, 0]),
        .exchange [0x8421] (some [2, 0])] none = false := by decide +kernel

/-- `SnapshotReadsAgree`: a trigger, the angle read, the speed, the angle again. -/
theorem witness_Snapshot :
    let f : Facade := { host [goodFrame 0x8421 [0x9000], goodFrame 0x8431 [0x7FFF],
      goodFrame 0x8421 [0x9000]] with wire := [.trigger true] }
    let g := left f (readRegister params 2 true f)
    let f' := left f (readRegister params 3 true g)
    let r := readRegister params 2 true f'
    codeOf (readRegister params 2 true f) = some .ok ∧ codeOf r = some .ok ∧ f'.life = .ready ∧
      f'.wire = g.wire ++ f'.wire.drop 2 ∧
      (∀ e ∈ f'.wire.drop 2, e.isExchange = true) ∧
      snapshotHolds (fun a => a ≤ 4) (left f r).wire none = true := by decide +kernel

end Sys2Proof.Tests
end

/-! ### What the decoder reads from an encoded instruction -/

namespace Sys2Proof

/-- A bit of a word assembled as a number is a digit of that number. -/
theorem getElem_eq_of_digit {n : Nat} {x : BitVec n} {b : Bool} (i : Nat) (hi : i < n)
    (h : x.toNat / 2 ^ i % 2 = b.toNat) : x[i] = b := by
  rw [getElem_eq_decide, h]
  cases b <;> rfl

/-- A field of a word assembled as a number is a digit group of that number. -/
theorem extractLsb'_eq_of_digits {n len : Nat} {x : BitVec n} {y : BitVec len} (start : Nat)
    (h : x.toNat / 2 ^ start % 2 ^ len = y.toNat) : x.extractLsb' start len = y :=
  BitVec.eq_of_toNat_eq ((extractLsb'_toNat_eq start len x).trans h)

section CommandWord

variable (rw : Bool) (cls : BitVec 4) (upd : Bool) (addr : BitVec 6) (nd : BitVec 4)

@[simp] theorem commandWord_upd : (commandWord rw cls upd addr nd)[10] = upd := by
  have hupd := upd.toNat_lt
  refine getElem_eq_of_digit 10 (by decide) ?_
  rw [commandWord_toNat]
  omega

@[simp] theorem commandWord_addr : (commandWord rw cls upd addr nd).extractLsb' 4 6 = addr := by
  refine extractLsb'_eq_of_digits 4 ?_
  rw [commandWord_toNat]
  omega

@[simp] theorem commandWord_nd : (commandWord rw cls upd addr nd).extractLsb' 0 4 = nd := by
  refine extractLsb'_eq_of_digits 0 ?_
  rw [commandWord_toNat]
  omega

/-- The form of an assembled command word is decided by its `rw` and `cls` alone (R50, R55). -/
theorem commandWord_topBits :
    (commandWord rw cls upd addr nd).toNat / 2048 = rw.toNat * 16 + cls.toNat := by
  have hupd := upd.toNat_lt
  rw [commandWord_toNat]
  omega

end CommandWord

@[simp] theorem commandKind_readWord (upd : Bool) (addr : BitVec 6) (nd : BitVec 4) :
    commandKind (commandWord true 0#4 upd addr nd) = .read := by
  rw [commandKind_eq, commandWord_topBits]
  rfl

@[simp] theorem commandKind_writeWord (upd : Bool) (addr : BitVec 6) (nd : BitVec 4) :
    commandKind (commandWord false 10#4 upd addr nd) = .write := by
  rw [commandKind_eq, commandWord_topBits]
  rfl

/-- The assembled safety word carries each field in its place (R57). -/
theorem decodeSafetyWord_safetyWordOf (noReset noSysErr noIfErr validAngle : Bool)
    (slaveId : BitVec 4) (crc : Byte) :
    decodeSafetyWord (safetyWordOf noReset noSysErr noIfErr validAngle slaveId crc) =
      .safetyWord noReset noSysErr noIfErr validAngle slaveId crc := by
  have key := safetyWordOf_toNat noReset noSysErr noIfErr validAngle slaveId crc
  have hReset := noReset.toNat_lt
  have hSysErr := noSysErr.toNat_lt
  have hIfErr := noIfErr.toNat_lt
  have hAngle := validAngle.toNat_lt
  simp only [decodeSafetyWord, Instr.safetyWord.injEq]
  refine ⟨getElem_eq_of_digit 15 (by decide) ?_, getElem_eq_of_digit 14 (by decide) ?_,
    getElem_eq_of_digit 13 (by decide) ?_, getElem_eq_of_digit 12 (by decide) ?_,
    extractLsb'_eq_of_digits 8 ?_, extractLsb'_eq_of_digits 0 ?_⟩
  all_goals rw [key]; omega

/-- The first lanes of the port `pl` are the payload, when it fits the lanes (R63). -/
theorem payloadLanes_take {pl : List Word} (h : pl.length ≤ 15) :
    (payloadLanes pl).toList.take pl.length = pl := by
  refine List.ext_getElem (by simp [h]) fun k _ hk => ?_
  simp [payloadLanes, List.getD_eq_getElem?_getD, List.getElem?_eq_getElem hk]

/-- What the 4-bit port `pn` counts of the encoded payload is the whole payload (R63, R108). -/
theorem payload_of_lanes {p : Ports} {pl : List Word} (h : pl.length ≤ 15)
    (hLanes : p.pl = payloadLanes pl) (hCount : p.pn = BitVec.ofNat 4 pl.length) :
    p.payload = pl := by
  have hpn : p.pn.toNat = pl.length := by
    rw [hCount, BitVec.toNat_ofNat]
    omega
  rw [Ports.payload, hpn, hLanes, payloadLanes_take h]

/-- Decoding undoes encoding. Only the operands that are packed into a port or a wire word need an
argument: the payload's lanes, the 29-bit descriptor, the fields of a wire word. -/
theorem decode_encode {i : Instr} (h : i.wellFormed = true) : decode (encode i) = .ok i := by
  cases i with
  | check w cmd pl =>
    have hLength : pl.length ≤ 15 := of_decide_eq_true h
    show Except.ok (Instr.check w cmd (Ports.payload _)) = _
    rw [payload_of_lanes hLength rfl rfl]
  | fldGet d raw => exact congrArg (fun e => Except.ok (Instr.fldGet e raw)) d.ofBits_toBits
  | fldSet d v => exact congrArg (fun e => Except.ok (Instr.fldSet e v)) d.ofBits_toBits
  | fldChk d wr => exact congrArg (fun e => Except.ok (Instr.fldChk e wr)) d.ofBits_toBits
  | cmdRead upd addr nd => simp [encode, decode, decodeCommandWord]
  | cmdWrite upd addr nd => simp [encode, decode, decodeCommandWord]
  | safetyWord noReset noSysErr noIfErr validAngle slaveId crc =>
    exact congrArg Except.ok
      (decodeSafetyWord_safetyWordOf noReset noSysErr noIfErr validAngle slaveId crc)
  | _ => rfl

end Sys2Proof

/-! ### What a step runs (spec/00_scope.md R8) -/

namespace Sys2Proof.Machine

theorem nextOffer_of_cons {s : State} {o : Offer} {rest : List Offer} (h : s.offers = o :: rest) :
    s.nextOffer = o := by
  simp [State.nextOffer, h]

theorem takeOffer_of_cons {s : State} {o : Offer} {rest : List Offer} (h : s.offers = o :: rest) :
    s.takeOffer = { s with offers := rest } := by
  simp [State.takeOffer, h]

/-- With nothing offered the selector shows its idle value (R61). -/
theorem nextOffer_of_nil {s : State} (h : s.offers = []) : s.nextOffer = idleOffer := by
  simp [State.nextOffer, h]

theorem takeOffer_of_nil {s : State} (h : s.offers = []) : s.takeOffer = s := by
  cases s
  cases h
  rfl

/-- The selector's idle value selects `NOP` (R61). -/
@[simp] theorem decode_idleOffer : decode idleOffer = .ok .nop := rfl

theorem step_of_cons {s : State} {o : Offer} {rest : List Offer} {i : Instr}
    (hOffers : s.offers = o :: rest) (hDecode : decode o = .ok i) :
    step s = exec i { s with offers := rest } := by
  rw [← takeOffer_of_cons hOffers]
  exact step_of_decode (by rw [nextOffer_of_cons hOffers, hDecode])

theorem step_of_nil {s : State} (h : s.offers = []) : step s = exec .nop s := by
  have hDecode : decode s.nextOffer = .ok .nop := by rw [nextOffer_of_nil h, decode_idleOffer]
  rw [step_of_decode hDecode, takeOffer_of_nil h]

theorem step_withOffer_encode (s : State) {i : Instr} (h : i.wellFormed = true) :
    step (s.withOffer (encode i)) = exec i s :=
  step_of_cons rfl (decode_encode h)

/-- Settles O4: the step rules for an offer and for none, and for an encoded instruction the decoder
undoing the encoder. -/
theorem stepRunsTheOfferedInstruction : Obligations.StepRunsTheOfferedInstruction :=
  ⟨fun _ _ _ _ hOffers hDecode => step_of_cons hOffers hDecode, fun _ h => step_of_nil h,
    fun s _ h => step_withOffer_encode s h⟩

end Sys2Proof.Machine

/-! ### What one operation writes (spec/10_state.md R11, R13, R15) -/

namespace Sys2Proof

/-- The operations that read or write the block. -/
def Instr.usesBlock : Instr → Bool
  | .crcInit | .crcByte _ | .crcWord _ | .crcRead | .check _ _ _ | .cacheWr _ _ | .cacheRd _
  | .fldGet _ _ | .fldSet _ _ | .blockCrc => true
  | _ => false

end Sys2Proof

namespace Sys2Proof.Machine

/-! #### The operations, as functions of the block -/

theorem operate_crcInit (b : Block) :
    b.operate .crcInit = (b.setCrcAcc crcSeed).endWith .ok := rfl

theorem operate_crcByte (b : Block) (x : Byte) :
    b.operate (.crcByte x) = (b.setCrcAcc (crcStep b.crcAcc x)).endWith .ok := rfl

theorem operate_crcWord (b : Block) (w : Word) :
    b.operate (.crcWord w) =
      (b.setCrcAcc (crcStep (crcStep b.crcAcc (hi8 w)) (lo8 w))).endWith .ok := rfl

theorem operate_crcRead (b : Block) :
    b.operate .crcRead = b.drive { out := (~~~ b.crcAcc).zeroExtend 16 } := rfl

theorem operate_check_of_status {w : Word} {c : ResultCode} (h : statusBitsError w = some c)
    (cmd : Word) (pl : List Word) (b : Block) :
    b.operate (.check w cmd pl) =
      (b.setSafetyLast w).drive { st := c, resetReq := resetRequest c } := by
  rcases check_cases w cmd pl b with ⟨e, hStatus, hOp⟩ | ⟨hStatus, -⟩ | ⟨hStatus, -⟩
  · rw [h] at hStatus
    cases hStatus
    exact hOp
  all_goals simp [h] at hStatus

/-- The code of a `CHECK` that reaches its CRC (R108 step 4). -/
def crcVerdict (w cmd : Word) (pl : List Word) : ResultCode :=
  if crc8 (txBytes cmd pl) = lo8 w then .ok else .crcError

theorem operate_check_of_crc {w : Word} (h : statusBitsError w = none)
    (cmd : Word) (pl : List Word) (b : Block) :
    b.operate (.check w cmd pl) =
      ((b.setSafetyLast w).setCrcAcc (crcAbsorb crcSeed (txBytes cmd pl))).drive
        { st := crcVerdict w cmd pl, resetReq := resetRequest (crcVerdict w cmd pl) } := by
  rcases check_cases w cmd pl b with ⟨c, hStatus, -⟩ | ⟨-, hCrc, hOp⟩ | ⟨-, hCrc, hOp⟩
  · simp [h] at hStatus
  all_goals simp [hOp, crcVerdict, hCrc, resetRequest]

theorem operate_cacheWr (b : Block) (ri : BitVec 5) (w : Word) :
    b.operate (.cacheWr ri w) = withIndex ri b fun i => (b.setSlot i w).endWith .ok := rfl

theorem operate_cacheRd (b : Block) (ri : BitVec 5) :
    b.operate (.cacheRd ri) = withIndex ri b fun i => b.drive { out := b.slot i } := rfl

theorem operate_fldGet (b : Block) (d : Descriptor) (raw : Word) :
    b.operate (.fldGet d raw) = withIndex d.reg b fun i =>
      if d.readable then (b.setSlot i raw).drive { out := d.extract raw }
      else b.endWith .accessDenied := rfl

theorem operate_fldSet (b : Block) (d : Descriptor) (v : Word) :
    b.operate (.fldSet d v) = withIndex d.reg b fun i =>
      if d.writable then
        (b.setSlot i (d.insert (b.slot i) v)).drive
          { out := d.insert (b.slot i) v, inCrcBlock := inBlock i }
      else b.endWith .accessDenied := rfl

theorem operate_blockCrc (b : Block) :
    b.operate .blockCrc =
      ((b.setCrcAcc (crcAbsorb crcSeed b.blockBytes)).setSlot 15
        (wordOfBytes (hi8 (b.slot 15)) (crc8 b.blockBytes))).drive
          { out := wordOfBytes (hi8 (b.slot 15)) (crc8 b.blockBytes) } := rfl

/-- An indexed operation that only drives outputs answers the same outputs on every block. -/
theorem withIndex_drive (ri : BitVec 5) (f : RegIndex → Outputs) :
    ∃ o, ∀ b : Block, (withIndex ri b fun i => b.drive (f i)) = b.drive o := by
  rcases Nat.lt_or_ge ri.toNat 22 with h | h
  · exact ⟨f ⟨ri.toNat, h⟩, fun b => withIndex_of_lt b _ h⟩
  · exact ⟨{ st := .illegalOp }, fun b => withIndex_of_ge b _ h⟩

/-- What `FLD_CHK` drives at a legal index (R123). -/
def fieldCheckOutputs (d : Descriptor) (wr : Bool) (i : RegIndex) : Outputs :=
  if allowed d wr then { needTrigger := needTrigger d wr, inCrcBlock := inBlock i }
  else { st := .accessDenied }

theorem operate_fldChk (b : Block) (d : Descriptor) (wr : Bool) :
    b.operate (.fldChk d wr) =
      withIndex d.reg b fun i => b.drive (fieldCheckOutputs d wr i) := by
  show withIndex d.reg b _ = _
  congr 1
  funext i
  unfold fieldCheckOutputs
  split <;> rfl

/-- An operation that drives on every block what it drives on the reset block has fixed outputs. -/
theorem exists_drive_of_reset {i : Instr}
    (h : ∀ b : Block, b.operate i = b.drive (Block.reset.operate i).1) :
    ∃ o, ∀ b : Block, b.operate i = b.drive o :=
  ⟨_, h⟩

/-- Every other operation neither reads nor writes the block: its operands fix its outputs. -/
theorem operate_of_not_usesBlock {i : Instr} (h : i.usesBlock = false) :
    ∃ o, ∀ b : Block, b.operate i = b.drive o := by
  cases i with
  | crcInit | crcByte | crcWord | crcRead | check | cacheWr | cacheRd | fldGet | fldSet
  | blockCrc => cases h
  | regoff ri => exact withIndex_drive ri fun i => { out := regOff i }
  | buildRd ri upd safe len =>
    exact withIndex_drive ri fun i =>
      { out := readCommand i upd safe len
        rxn := frameWords ((readCommand i upd safe len).extractLsb' 0 4) safe }
  | buildWr ri safe => exact withIndex_drive ri fun i => { out := writeCommand i safe }
  | fldChk d wr => simpa only [operate_fldChk] using withIndex_drive d.reg (fieldCheckOutputs d wr)
  | _ => exact exists_drive_of_reset fun _ => rfl

/-! #### The writes an operation is named for -/

/-- `c` comes from `b` by writes of the cells the instruction is named to write (R11, R13, R15). -/
inductive WrittenBy (i : Instr) (b : Block) : Block → Prop where
  | refl : WrittenBy i b b
  | slot {c : Block} (k : RegIndex) (v : Word) (h : WrittenBy i b c)
      (hk : i.writesSlot k = true) : WrittenBy i b (c.setSlot k v)
  | crcAcc {c : Block} (a : Byte) (h : WrittenBy i b c)
      (ha : i.writesCrcAcc = true) : WrittenBy i b (c.setCrcAcc a)
  | safetyLast {c : Block} (w : Word) (h : WrittenBy i b c)
      (hw : i.writesSafetyLast = true) : WrittenBy i b (c.setSafetyLast w)

namespace WrittenBy

variable {i : Instr} {b c : Block}

theorem slot_eq (h : WrittenBy i b c) {k : RegIndex} (hk : i.writesSlot k = false) :
    c.slot k = b.slot k := by
  induction h with
  | refl => rfl
  | slot j v _ hj ih =>
    have hne : j ≠ k := by
      rintro rfl
      simp [hk] at hj
    rw [Block.slot_setSlot_of_ne _ v hne, ih]
  | crcAcc a _ _ ih => rw [Block.setCrcAcc_slot, ih]
  | safetyLast w _ _ ih => rw [Block.setSafetyLast_slot, ih]

theorem crcAcc_eq (h : WrittenBy i b c) (hi : i.writesCrcAcc = false) : c.crcAcc = b.crcAcc := by
  induction h with
  | refl => rfl
  | slot k v _ _ ih => rw [Block.setSlot_crcAcc, ih]
  | crcAcc a _ ha _ => simp [hi] at ha
  | safetyLast w _ _ ih => rw [Block.setSafetyLast_crcAcc, ih]

theorem safetyLast_eq (h : WrittenBy i b c) (hi : i.writesSafetyLast = false) :
    c.safetyLast = b.safetyLast := by
  induction h with
  | refl => rfl
  | slot k v _ _ ih => rw [Block.setSlot_safetyLast, ih]
  | crcAcc a _ _ ih => rw [Block.setCrcAcc_safetyLast, ih]
  | safetyLast w _ hw _ => simp [hi] at hw

/-- A write of `SAFETY_LAST` leaves a value there: none of the writes clears it. -/
theorem safetyLast_isSome (h : WrittenBy i b c) (hb : b.safetyLast.isSome = true) :
    c.safetyLast.isSome = true := by
  induction h with
  | refl => exact hb
  | slot k v _ _ ih => exact ih
  | crcAcc a _ _ ih => exact ih
  | safetyLast w _ _ _ => rfl

end WrittenBy

/-- The index test, for any property of the block left. -/
theorem withIndex_keeps {P : Block → Prop} {ri : BitVec 5} {b : Block} {k : RegIndex → Result}
    (hRun : ∀ i : RegIndex, ri.toNat = i.val → P (k i).2) (hSame : P b) :
    P (withIndex ri b k).2 := by
  rcases withIndex_cases ri b k with ⟨i, hi, h⟩ | ⟨-, h⟩
  · exact h ▸ hRun i hi
  · exact h ▸ hSame

/-- All an operation can do to the block: write cells it is named to write. -/
theorem operate_writtenBy (i : Instr) (b : Block) : WrittenBy i b (b.operate i).2 := by
  cases hUses : i.usesBlock with
  | false =>
    obtain ⟨o, h⟩ := operate_of_not_usesBlock hUses
    rw [h]
    exact .refl
  | true =>
    cases i with
    | crcInit => exact .crcAcc _ .refl rfl
    | crcByte x => exact .crcAcc _ .refl rfl
    | crcWord w => exact .crcAcc _ .refl rfl
    | crcRead => exact .refl
    | check w cmd pl =>
      cases h : statusBitsError w with
      | some c =>
        rw [operate_check_of_status h]
        exact .safetyLast w .refl rfl
      | none =>
        rw [operate_check_of_crc h]
        exact .crcAcc _ (.safetyLast w .refl rfl) rfl
    | cacheWr ri w =>
      rw [operate_cacheWr]
      exact withIndex_keeps (fun j hj => .slot j w .refl (decide_eq_true hj)) .refl
    | cacheRd ri =>
      rw [operate_cacheRd]
      exact withIndex_keeps (fun _ _ => .refl) .refl
    | fldGet d raw =>
      rw [operate_fldGet]
      refine withIndex_keeps (fun j hj => ?_) .refl
      split
      · exact .slot j raw .refl (decide_eq_true hj)
      · exact .refl
    | fldSet d v =>
      rw [operate_fldSet]
      refine withIndex_keeps (fun j hj => ?_) .refl
      split
      · exact .slot j _ .refl (decide_eq_true hj)
      · exact .refl
    | blockCrc => exact .slot 15 _ (.crcAcc _ .refl rfl) rfl
    | _ => cases hUses

theorem writtenBy_of_exec {i : Instr} {s t : State} (h : exec i s = .next t) :
    WrittenBy i s.toBlock t.toBlock := by
  have key := operate_writtenBy i s.toBlock
  rwa [Block.operate_of_exec h] at key

theorem offers_of_exec {i : Instr} {s t : State} (h : exec i s = .next t) :
    t.offers = s.offers := by
  rw [exec_eq_operate] at h
  cases h
  rfl

/-- Settles O42: an operation writes only cells it is named to write, and those writes leave every
other cell. -/
theorem onlyTheNamedOperationsWrite : Obligations.OnlyTheNamedOperationsWrite := by
  intro i s t h
  have hWritten := writtenBy_of_exec h
  exact ⟨fun _ hk => hWritten.slot_eq hk, hWritten.crcAcc_eq, hWritten.safetyLast_eq,
    offers_of_exec h⟩

/-! ### What one operation reads (spec/10_state.md R15, R17) -/

/-- Two answers agree in all but `SAFETY_LAST`. -/
structure Result.Agree (r r' : Result) : Prop where
  regcache : r.2.regcache = r'.2.regcache
  crcAcc : r.2.crcAcc = r'.2.crcAcc
  outs : r.1 = r'.1

section Reads

variable {b b' : Block}

theorem Block.slot_congr (h : b.regcache = b'.regcache) (k : RegIndex) : b.slot k = b'.slot k := by
  rw [Block.slot, Block.slot, h]

theorem Block.blockBytes_congr (h : b.regcache = b'.regcache) : b.blockBytes = b'.blockBytes := by
  simp only [Block.blockBytes, Block.slot_congr h]

theorem Result.Agree.setSlot_drive (hCache : b.regcache = b'.regcache) (hAcc : b.crcAcc = b'.crcAcc)
    (k : RegIndex) (v : Word) (o : Outputs) :
    Result.Agree ((b.setSlot k v).drive o) ((b'.setSlot k v).drive o) :=
  ⟨congrArg (·.set k v) hCache, hAcc, rfl⟩

/-- The index test reads no state. -/
theorem Result.Agree.withIndex {k k' : RegIndex → Result} (ri : BitVec 5)
    (hCache : b.regcache = b'.regcache) (hAcc : b.crcAcc = b'.crcAcc)
    (hRun : ∀ i, Result.Agree (k i) (k' i)) :
    Result.Agree (Machine.withIndex ri b k) (Machine.withIndex ri b' k') := by
  rcases Nat.lt_or_ge ri.toNat 22 with h | h
  · rw [withIndex_of_lt b k h, withIndex_of_lt b' k' h]
    exact hRun _
  · rw [withIndex_of_ge b k h, withIndex_of_ge b' k' h]
    exact ⟨hCache, hAcc, rfl⟩

theorem operate_blockCrc_agree (hCache : b.regcache = b'.regcache) :
    Result.Agree (b.operate .blockCrc) (b'.operate .blockCrc) := by
  rw [operate_blockCrc, operate_blockCrc, Block.slot_congr hCache, Block.blockBytes_congr hCache]
  exact ⟨by simp [hCache], rfl, rfl⟩

theorem operate_check_agree_of_crc {w : Word} (h : statusBitsError w = none) (cmd : Word)
    (pl : List Word) (hCache : b.regcache = b'.regcache) :
    Result.Agree (b.operate (.check w cmd pl)) (b'.operate (.check w cmd pl)) := by
  rw [operate_check_of_crc h, operate_check_of_crc h]
  exact ⟨hCache, rfl, rfl⟩

/-- No output of a `CHECK` depends on the state. -/
theorem operate_check_outs_eq (w cmd : Word) (pl : List Word) (b b' : Block) :
    (b.operate (.check w cmd pl)).1 = (b'.operate (.check w cmd pl)).1 := by
  cases h : statusBitsError w with
  | some c => rw [operate_check_of_status h, operate_check_of_status h]; rfl
  | none => rw [operate_check_of_crc h, operate_check_of_crc h]; rfl

/-- No operation reads `SAFETY_LAST`. -/
theorem operate_agree (i : Instr) (hCache : b.regcache = b'.regcache)
    (hAcc : b.crcAcc = b'.crcAcc) : Result.Agree (b.operate i) (b'.operate i) := by
  cases hUses : i.usesBlock with
  | false =>
    obtain ⟨o, h⟩ := operate_of_not_usesBlock hUses
    rw [h, h]
    exact ⟨hCache, hAcc, rfl⟩
  | true =>
    cases i with
    | crcInit =>
      rw [operate_crcInit, operate_crcInit]
      exact ⟨hCache, rfl, rfl⟩
    | crcByte x =>
      rw [operate_crcByte, operate_crcByte, hAcc]
      exact ⟨hCache, rfl, rfl⟩
    | crcWord w =>
      rw [operate_crcWord, operate_crcWord, hAcc]
      exact ⟨hCache, rfl, rfl⟩
    | crcRead =>
      rw [operate_crcRead, operate_crcRead, hAcc]
      exact ⟨hCache, hAcc, rfl⟩
    | check w cmd pl =>
      cases h : statusBitsError w with
      | some c =>
        rw [operate_check_of_status h, operate_check_of_status h]
        exact ⟨hCache, hAcc, rfl⟩
      | none => exact operate_check_agree_of_crc h cmd pl hCache
    | cacheWr ri w =>
      rw [operate_cacheWr, operate_cacheWr]
      exact .withIndex ri hCache hAcc fun j => .setSlot_drive hCache hAcc j w _
    | cacheRd ri =>
      rw [operate_cacheRd, operate_cacheRd]
      refine .withIndex ri hCache hAcc fun j => ?_
      rw [Block.slot_congr hCache]
      exact ⟨hCache, hAcc, rfl⟩
    | fldGet d raw =>
      rw [operate_fldGet, operate_fldGet]
      refine .withIndex d.reg hCache hAcc fun j => ?_
      split
      · exact .setSlot_drive hCache hAcc j raw _
      · exact ⟨hCache, hAcc, rfl⟩
    | fldSet d v =>
      rw [operate_fldSet, operate_fldSet]
      refine .withIndex d.reg hCache hAcc fun j => ?_
      rw [Block.slot_congr hCache]
      split
      · exact .setSlot_drive hCache hAcc j _ _
      · exact ⟨hCache, hAcc, rfl⟩
    | blockCrc => exact operate_blockCrc_agree hCache
    | _ => cases hUses

end Reads

/-- Status bits 14 to 12 all 1 send a `CHECK` on to its CRC (R108). -/
theorem statusBitsError_eq_none {w : Word} (h : w &&& 0x7000 = 0x7000) :
    statusBitsError w = none := by
  have h14 : w[14] = true := by simpa using congrArg (·[14]) h
  have h13 : w[13] = true := by simpa using congrArg (·[13]) h
  have h12 : w[12] = true := by simpa using congrArg (·[12]) h
  simp [statusBitsError, h14, h13, h12]

/-- What two answers of `exec` have in common, from what the operations on the two blocks have. -/
theorem Result.Agree.of_exec {i : Instr} {s s' t t' : State} (h : exec i s = .next t)
    (h' : exec i s' = .next t') (key : Result.Agree (s.toBlock.operate i) (s'.toBlock.operate i)) :
    t.regcache = t'.regcache ∧ t.crcAcc = t'.crcAcc ∧ t.outs = t'.outs := by
  rw [Block.operate_of_exec h, Block.operate_of_exec h'] at key
  exact ⟨key.regcache, key.crcAcc, key.outs⟩

/-- Settles O45: `SAFETY_LAST` and the old outputs are read by no operation, `CRC_ACC` not by
`BLOCK_CRC` nor by a `CHECK` that reaches its CRC. -/
theorem resultsDependOnCacheAndAccumulatorOnly :
    Obligations.ResultsDependOnCacheAndAccumulatorOnly := by
  refine ⟨fun i s s' t t' hCache hAcc h h' =>
      Result.Agree.of_exec h h' (operate_agree i hCache hAcc),
    fun w cmd pl s s' t t' h h' => ?_,
    fun i s s' t t' hCache hi h h' => Result.Agree.of_exec h h' ?_⟩
  · have key := operate_check_outs_eq w cmd pl s.toBlock s'.toBlock
    rwa [Block.operate_of_exec h, Block.operate_of_exec h'] at key
  · rcases hi with rfl | ⟨w, cmd, pl, rfl, hw⟩
    · exact operate_blockCrc_agree hCache
    · exact operate_check_agree_of_crc (statusBitsError_eq_none hw) cmd pl hCache

/-! ### What a run keeps -/

/-- A step that answers a next state ran the instruction it was offered. -/
theorem exec_of_step {s t : State} (h : step s = .next t) :
    ∃ i, decode s.nextOffer = .ok i ∧ exec i s.takeOffer = .next t := by
  rcases step_cases s with ⟨i, hDecode, hStep⟩ | ⟨e, -, hStep⟩
  · exact ⟨i, hDecode, hStep ▸ h⟩
  · rw [hStep] at h
    cases h

/-- What every step keeps, every run keeps. -/
theorem run_keeps {P : State → Prop} (hStep : ∀ s t, step s = .next t → P s → P t) (n : Nat)
    {s t : State} (hRun : Host.Core.run Sys2Proof.core n s = .next t) (hs : P s) : P t := by
  induction n generalizing s with
  | zero =>
    cases hRun
    exact hs
  | succ n ih =>
    simp only [Host.Core.run] at hRun
    split at hRun
    next u hu => exact ih hRun (hStep s u hu hs)
    all_goals cases hRun

theorem safetyLast_isSome_of_step {s t : State} (h : step s = .next t)
    (hs : s.safetyLast.isSome = true) : t.safetyLast.isSome = true := by
  obtain ⟨i, -, hExec⟩ := exec_of_step h
  exact (writtenBy_of_exec hExec).safetyLast_isSome hs

/-- Settles O46: no step clears `SAFETY_LAST`. -/
theorem safetyLastIsNeverCleared : Obligations.SafetyLastIsNeverCleared :=
  fun n _ _ hRun hs => run_keeps (fun _ _ => safetyLast_isSome_of_step) n hRun hs

/-- No invocation the host is still to make may write the slot. -/
def State.OffersSpare (s : State) (k : RegIndex) : Prop :=
  ∀ o ∈ s.offers, ∀ i, decode o = .ok i → i.writesSlot k = false

theorem State.nextOffer_mem_or_idle (s : State) :
    s.nextOffer ∈ s.offers ∨ s.nextOffer = idleOffer := by
  cases h : s.offers with
  | nil => exact .inr (nextOffer_of_nil h)
  | cons o rest => exact .inl (by simp [nextOffer_of_cons h])

theorem State.OffersSpare.nextOffer {s : State} {k : RegIndex} (h : s.OffersSpare k) {i : Instr}
    (hDecode : decode s.nextOffer = .ok i) : i.writesSlot k = false := by
  rcases s.nextOffer_mem_or_idle with hMem | hIdle
  · exact h _ hMem i hDecode
  · rw [hIdle, decode_idleOffer] at hDecode
    cases hDecode
    rfl

/-- A step offered nothing that may write the slot keeps it, and leaves nothing offered that may. -/
theorem slot_of_step {s t : State} {k : RegIndex} (h : step s = .next t) (hs : s.OffersSpare k) :
    t.slot k = s.slot k ∧ t.OffersSpare k := by
  obtain ⟨i, hDecode, hExec⟩ := exec_of_step h
  have hOffers : t.offers = s.offers.tail := offers_of_exec hExec
  refine ⟨(writtenBy_of_exec hExec).slot_eq (hs.nextOffer hDecode), fun o ho => hs o ?_⟩
  exact List.mem_of_mem_tail (hOffers ▸ ho)

/-- Settles O47, with the value of the slot and the offers' sparing it as the invariant. -/
theorem untouchedSlotSurvivesARun : Obligations.UntouchedSlotSurvivesARun := by
  intro n s t k hSpare hRun
  have hKept : t.slot k = s.slot k ∧ t.OffersSpare k := by
    refine run_keeps (P := fun u => u.slot k = s.slot k ∧ u.OffersSpare k)
      (fun u v hStep hu => ?_) n hRun ⟨rfl, hSpare⟩
    obtain ⟨hSlot, hOffers⟩ := hu
    obtain ⟨hStepSlot, hStepOffers⟩ := slot_of_step hStep hOffers
    exact ⟨hStepSlot.trans hSlot, hStepOffers⟩
  exact hKept.1

/-! ### The state after reset (spec/10_state.md R21) -/

@[simp] theorem Block.reset_slot (k : RegIndex) : Block.reset.slot k = 0 := by
  simp [Block.slot, Block.reset]

/-- Settles O1: the reset block, slot by slot. -/
theorem resetLeavesTheStatedValues : Obligations.ResetLeavesTheStatedValues :=
  ⟨Block.reset_slot, rfl, rfl⟩

/-- Outputs of zero, with the code `OK`, have the shape of R170. -/
theorem Outputs.shaped_zero : ({} : Outputs).Shaped := by decide

/-- The code `OK` records nothing (R170). -/
theorem State.recorded_of_ok {s : State} (h : s.outs.st = .ok) : s.Recorded := by
  simp [State.Recorded, h]

/-- Settles O2: the reset outputs are zero with the code `OK`. -/
theorem outputsAreShapedAndRecordedAtReset : Obligations.OutputsAreShapedAndRecordedAtReset :=
  ⟨Outputs.shaped_zero, State.recorded_of_ok rfl⟩

end Sys2Proof.Machine

/-! ### The read command as a command word (spec/40_command_codec.md R82) -/

namespace Sys2Proof.Machine

/-- The sensor address of a register as the six address bits of a command word carry it (R50, R59). -/
def addressField (i : RegIndex) : BitVec 6 := BitVec.ofNat 6 (sensorAddress i.toPort)

@[simp] theorem addressField_toNat (i : RegIndex) :
    (addressField i).toNat = sensorAddress i.toPort := by
  revert i
  decide

/-- The offset of a register is its address, moved to the place the command word has for it (R59). -/
theorem regOff_eq_shift (i : RegIndex) : regOff i = (addressField i).zeroExtend 16 <<< 4 := by
  revert i
  decide

theorem sensorAddresses_contains (i : RegIndex) :
    sensorAddresses.contains (sensorAddress i.toPort) = true := by
  revert i
  decide

/-- `BUILD_RD` joins by OR what R50 lays side by side; the safety flag falls on bit 0 of the length. -/
theorem readCommand_eq_commandWord (i : RegIndex) (upd safe : Bool) (len : BitVec 4) :
    readCommand i upd safe len =
      commandWord true 0#4 upd (addressField i) (len ||| (BitVec.ofBool safe).zeroExtend 4) := by
  have hUpd : flagWord upd updFlag = (BitVec.ofBool upd).zeroExtend 16 <<< 10 := by
    cases upd <;> rfl
  have hSafe : flagWord safe safeFlag = (BitVec.ofBool safe).zeroExtend 16 := by
    cases safe <;> rfl
  rw [readCommand, regOff_eq_shift, hUpd, hSafe]
  ext j hj
  show _ = (BitVec.ofBool true ++ 0#4 ++ BitVec.ofBool upd ++ addressField i ++
    (len ||| (BitVec.ofBool safe).zeroExtend 4))[j]
  simp only [BitVec.getElem_append]
  interval_cases j <;> simp [readBase, Bool.or_comm]

/-- The single-register read with the safety flag asks for one data word (R54, R58). -/
theorem readCommand_one (i : RegIndex) (upd : Bool) :
    readCommand i upd true 1 = commandWord true 0#4 upd (addressField i) 1#4 :=
  readCommand_eq_commandWord i upd true 1

theorem commandFields_readCommand_one (i : RegIndex) (upd : Bool) :
    (commandFields (readCommand i upd true 1)).kind = .read ∧
      (commandFields (readCommand i upd true 1)).upd = upd ∧
      (commandFields (readCommand i upd true 1)).addr = addressField i ∧
      (commandFields (readCommand i upd true 1)).nd = 1 := by
  rw [readCommand_one]
  exact ⟨commandKind_readWord _ _ _, commandWord_upd _ _ _ _ _, commandWord_addr _ _ _ _ _,
    commandWord_nd _ _ _ _ _⟩

/-- What `BUILD_RD` drives for the single-register read: the word and a frame of two words (R82). -/
theorem operate_buildRd_one (i : RegIndex) (upd : Bool) (b : Block) :
    b.operate (.buildRd i.toPort upd true 1) =
      b.drive { out := readCommand i upd true 1, rxn := 2 } := by
  have hOperate : b.operate (.buildRd i.toPort upd true 1) = withIndex i.toPort b fun k => b.drive
      { out := readCommand k upd true 1
        rxn := frameWords ((readCommand k upd true 1).extractLsb' 0 4) true } := rfl
  have hFrame : frameWords ((readCommand i upd true 1).extractLsb' 0 4) true = 2 := by
    rw [readCommand_one, commandWord_nd]
    rfl
  rw [hOperate, withIndex_toPort, hFrame]

end Sys2Proof.Machine

/-! ### What a host sequence that returned `OK` has done -/

namespace Sys2Proof.Machine

/-- A chained sequence that returned `OK` ran both its parts to `OK` (R175, R189). -/
theorem HostOutcome.andThen_eq_ok {α β : Type} {r : HostOutcome α} {zero : β}
    {k : α → Facade → HostOutcome β} {v : β} {g : Facade}
    (h : r.andThen zero k = .done .ok v g) : ∃ a f, r = .done .ok a f ∧ k a f = .done .ok v g := by
  rcases HostOutcome.andThen_eq_done h with hOk | ⟨_, hError, -⟩
  · exact hOk
  · exact absurd rfl hError

/-- A Transport call that succeeded is logged with its answer, and changes neither the block nor the
lifecycle (R41). -/
theorem Facade.transport_eq_ok {f g : Facade} {log : Option (List Word) → WireCall}
    {rx : List Word} (h : f.transport log = .done .ok rx g) :
    g.wire = f.wire ++ [log (some rx)] ∧ g.block = f.block ∧ g.life = f.life := by
  rcases f.transport_cases log with ⟨-, e⟩ | ⟨_, -, e⟩ | ⟨_, _, -, e⟩
  all_goals rw [e] at h; cases h
  exact ⟨rfl, rfl, rfl⟩

theorem Facade.trigger_eq_ok {f g : Facade} {rx : List Word} (h : f.trigger = .done .ok rx g) :
    g.wire = f.wire ++ [.trigger true] :=
  (Facade.transport_eq_ok h).1

/-- An exchange that succeeded delivers, and logs, a frame of the length asked for (R41, R58). -/
theorem Facade.exchange_eq_ok {f g : Facade} {tx : List Word} {n : Nat} {rx : List Word}
    (h : f.exchange tx n = .done .ok rx g) :
    g.wire = f.wire ++ [.exchange tx (some rx)] ∧ rx.length = n := by
  obtain ⟨ws, f₁, hCall, hFrame⟩ := HostOutcome.andThen_eq_ok h
  cases hFrame
  exact ⟨(Facade.transport_eq_ok hCall).1, receiveFrame_length n ws⟩

/-- The reset duty, once paid, has left the log alone or made one trigger and one dummy exchange
(R177, R178). -/
theorem payReset_eq_ok {p : HostParams} {due : Bool} {f g : Facade}
    (h : payReset p due f = .done .ok () g) :
    g.wire = f.wire ∨
      ∃ e : WireCall, e.isExchange = true ∧ g.wire = f.wire ++ [.trigger true, e] := by
  unfold payReset at h
  split at h
  · obtain ⟨_, f₁, hTrigger, h⟩ := HostOutcome.andThen_eq_ok h
    obtain ⟨rx, f₂, hExchange, h⟩ := HostOutcome.andThen_eq_ok h
    cases h
    refine .inr ⟨.exchange [p.resetSafetyCmd] (some rx), rfl, ?_⟩
    simp [(Facade.exchange_eq_ok hExchange).1, Facade.trigger_eq_ok hTrigger]
  · cases h
    exact .inl rfl

/-- A Facade that is `Ready` owes no `reset_safety` (R178). -/
theorem payReset_of_ready (p : HostParams) (due : Bool) {f : Facade} (h : f.life = .ready) :
    payReset p due f = .done .ok () f := by
  simp [payReset, h]

/-- The log entry of a single-register read answered by a data word and a safety word (R58). -/
def singleRead (i : RegIndex) (upd : Bool) (x w : Word) : WireCall :=
  .exchange [readCommand i upd true 1] (some [x, w])

/-- A checked read that returned `OK` made one exchange, whose data word it returns (R130). -/
theorem safeRead_eq_ok {i : RegIndex} {upd : Bool} {f g : Facade} {x : Word}
    (h : safeRead i.toPort upd f = .done .ok x g) :
    ∃ w, g.wire = f.wire ++ [singleRead i upd x w] := by
  rw [safeRead, Facade.call_eq, operate_buildRd_one, Block.drive_fst] at h
  obtain ⟨rx, f₁, hExchange, hCheck⟩ := HostOutcome.andThen_eq_ok h
  obtain ⟨hWire, hLength⟩ := Facade.exchange_eq_ok hExchange
  obtain ⟨y, w, rfl⟩ := List.length_eq_two.mp hLength
  rw [Facade.check_eq] at hCheck
  split at hCheck
  next hFailed =>
    injection hCheck with hCode
    exact absurd hCode hFailed
  next =>
    cases hCheck
    exact ⟨w, hWire⟩

/-- `read_register` that returned `OK`: the reset duty, one exchange, and its data word both returned and
cached (R132). -/
theorem readRegister_eq_ok {p : HostParams} {i : RegIndex} {upd : Bool} {f g : Facade} {x : Word}
    (h : readRegister p i upd f = .done .ok x g) :
    ∃ f₁ w, payReset p true f = .done .ok () f₁ ∧ g.wire = f₁.wire ++ [singleRead i upd x w] ∧
      g.block.slot i = x := by
  unfold readRegister Facade.whenUsable at h
  split at h
  · obtain ⟨_, f₁, hPaid, h⟩ := HostOutcome.andThen_eq_ok h
    obtain ⟨_, f₂, hRead, h⟩ := HostOutcome.andThen_eq_ok h
    cases h
    obtain ⟨w, hWire⟩ := safeRead_eq_ok hRead
    refine ⟨f₁, w, hPaid, hWire, ?_⟩
    simp [operate_cacheWr]
  · cases h

end Sys2Proof.Machine

/-! ### Snapshots (spec/20_memory.md R39) -/

namespace Sys2Proof.Machine

/-- The words read of one snapshot are never forgotten while it is in force. -/
def KeepsWords (known known' : List (Nat × Word)) : Prop :=
  ∀ a x, known.lookup a = some x → known'.lookup a = some x

theorem KeepsWords.refl (known : List (Nat × Word)) : KeepsWords known known := fun _ _ h => h

theorem KeepsWords.trans {k₁ k₂ k₃ : List (Nat × Word)} (h : KeepsWords k₁ k₂)
    (h' : KeepsWords k₂ k₃) : KeepsWords k₁ k₃ :=
  fun a x hx => h' a x (h a x hx)

/-- A word of an address not yet seen displaces none. -/
theorem KeepsWords.cons {known : List (Nat × Word)} {a : Nat} (h : known.lookup a = none)
    (w : Word) : KeepsWords known ((a, w) :: known) := by
  intro b x hx
  have hne : b ≠ a := by
    rintro rfl
    simp [h] at hx
  rwa [List.lookup_cons, beq_false_of_ne hne]

/-- All merging the first word of a read can do: agree with the word known, be new, or be of a register
outside the update buffer. -/
theorem mergeSnapshot_cons_eq_some {buffered : Nat → Bool} {a : Nat} {w : Word} {ws : List Word}
    {known known' : List (Nat × Word)}
    (h : mergeSnapshot buffered a (w :: ws) known = some known') :
    ∃ k, mergeSnapshot buffered (a + 1) ws k = some known' ∧ KeepsWords known k ∧
      (buffered a = true → k.lookup a = some w) := by
  rw [mergeSnapshot] at h
  split at h
  · split at h
    next x hKnown =>
      split at h
      next hEq => exact ⟨known, h, .refl _, fun _ => hEq ▸ hKnown⟩
      next => cases h
    next hNew => exact ⟨_, h, .cons hNew w, fun _ => List.lookup_cons_self⟩
  next hOutside => exact ⟨known, h, .refl _, fun hb => absurd hb hOutside⟩

theorem mergeSnapshot_keepsWords {buffered : Nat → Bool} {ws : List Word} {a : Nat}
    {known known' : List (Nat × Word)} (h : mergeSnapshot buffered a ws known = some known') :
    KeepsWords known known' := by
  induction ws generalizing a known with
  | nil =>
    cases h
    exact .refl _
  | cons w ws ih =>
    obtain ⟨k, hRest, hKeeps, -⟩ := mergeSnapshot_cons_eq_some h
    exact hKeeps.trans (ih hRest)

/-- A word read of an update-buffer register is known from then on. -/
theorem mergeSnapshot_lookup {buffered : Nat → Bool} {a : Nat} {w : Word} {ws : List Word}
    {known known' : List (Nat × Word)} (hBuffered : buffered a = true)
    (h : mergeSnapshot buffered a (w :: ws) known = some known') : known'.lookup a = some w := by
  obtain ⟨k, hRest, -, hKnown⟩ := mergeSnapshot_cons_eq_some h
  exact mergeSnapshot_keepsWords hRest a w (hKnown hBuffered)

section Premise

variable {buffered : Nat → Bool} {rest : List WireCall} {known : List (Nat × Word)}

/-- What the premise asks of an exchange while a snapshot is in force: the words of an update-sourced read
merge into the words known, any other exchange is free. -/
theorem snapshotHolds_exchange {e : WireCall} (he : e.isExchange = true)
    (h : snapshotHolds buffered (e :: rest) (some known) = true) :
    ∃ known', snapshotHolds buffered rest (some known') = true ∧ KeepsWords known known' ∧
      ∀ a ws, e.readWords = some (true, a, ws) →
        mergeSnapshot buffered a ws known = some known' := by
  cases e with
  | exchange tx rx =>
    simp only [snapshotHolds] at h
    split at h
    next a ws hRead =>
      split at h
      next known' hMerge =>
        refine ⟨known', h, mergeSnapshot_keepsWords hMerge, fun b vs hRead' => ?_⟩
        rw [hRead] at hRead'
        cases hRead'
        exact hMerge
      next => cases h
    next hRead => exact ⟨known, h, .refl _, fun b vs hRead' => by simp [hRead] at hRead'⟩
    next hRead => exact ⟨known, h, .refl _, fun b vs hRead' => by simp [hRead] at hRead'⟩
  | init _ | deinit _ | trigger _ => cases he

/-- Exchanges alone never end a snapshot nor forget a word of it (R39). -/
theorem snapshotHolds_exchanges {es : List WireCall} (hes : ∀ e ∈ es, e.isExchange = true)
    (h : snapshotHolds buffered (es ++ rest) (some known) = true) :
    ∃ known', snapshotHolds buffered rest (some known') = true ∧ KeepsWords known known' := by
  induction es generalizing known with
  | nil => exact ⟨known, h, .refl _⟩
  | cons e es ih =>
    rw [List.forall_mem_cons] at hes
    obtain ⟨k, hRest, hKeeps, -⟩ := snapshotHolds_exchange hes.1 h
    obtain ⟨known', hEnd, hKeeps'⟩ := ih hes.2 hRest
    exact ⟨known', hEnd, hKeeps.trans hKeeps'⟩

/-- A log that keeps the premise keeps it from any of its calls on. -/
theorem snapshotHolds_suffix {pre : List WireCall} {s : Option (List (Nat × Word))}
    (h : snapshotHolds buffered (pre ++ rest) s = true) :
    ∃ s', snapshotHolds buffered rest s' = true := by
  induction pre generalizing s with
  | nil => exact ⟨s, h⟩
  | cons c pre ih =>
    cases c with
    | init _ | deinit _ => exact ih (s := none) h
    | trigger succeeded => cases succeeded <;> exact ih h
    | exchange tx rx =>
      cases s with
      | none => exact ih (s := none) h
      | some known =>
        obtain ⟨k, hRest, -⟩ := snapshotHolds_exchange rfl h
        exact ih hRest

/-- The log ends with a snapshot in force: a trigger that succeeded, then exchanges only. -/
def SnapshotInForce (wire : List WireCall) : Prop :=
  ∃ pre post, wire = pre ++ .trigger true :: post ∧ ∀ e ∈ post, WireCall.isExchange e = true

theorem SnapshotInForce.exists_known {wire : List WireCall} {s : Option (List (Nat × Word))}
    (hForce : SnapshotInForce wire) (h : snapshotHolds buffered (wire ++ rest) s = true) :
    ∃ known, snapshotHolds buffered rest (some known) = true := by
  obtain ⟨pre, post, rfl, hPost⟩ := hForce
  rw [List.append_assoc] at h
  obtain ⟨s', hTrigger⟩ := snapshotHolds_suffix h
  obtain ⟨known, hRest, -⟩ := snapshotHolds_exchanges (known := []) hPost hTrigger
  exact ⟨known, hRest⟩

/-- Paying the reset duty leaves a snapshot in force: the old one, or the one its own trigger took. -/
theorem SnapshotInForce.of_payReset {p : HostParams} {due : Bool} {f g : Facade}
    (hForce : SnapshotInForce f.wire) (h : payReset p due f = .done .ok () g) :
    SnapshotInForce g.wire := by
  rcases payReset_eq_ok h with hSame | ⟨e, he, hPaid⟩
  · rwa [hSame]
  · exact ⟨f.wire, [e], hPaid, by simpa using he⟩

/-- A read of one mapped register, answered in full, delivers its data word at its address (R33, R58). -/
theorem readWords_of_one {cmd : Word} {i : RegIndex} (hKind : (commandFields cmd).kind = .read)
    (hAddr : (commandFields cmd).addr = addressField i) (hNd : (commandFields cmd).nd = 1)
    (x w : Word) : (WireCall.exchange [cmd] (some [x, w])).readWords =
      some ((commandFields cmd).upd, sensorAddress i.toPort, [x]) := by
  have hAddresses : readAddresses cmd = [sensorAddress i.toPort] := by
    simp [readAddresses, hAddr, hNd]
  have hUnderstood : understoodCommand cmd = true := by
    simp only [understoodCommand, hKind, hNd, hAddresses, List.all_cons, List.all_nil,
      sensorAddresses_contains]
    rfl
  simp [WireCall.readWords, WireCall.frame?, hUnderstood, hKind, hAddr, hNd]

/-- An update-sourced single-register read is one the premise speaks of (R52). -/
theorem singleRead_readWords (i : RegIndex) (x w : Word) :
    (singleRead i true x w).readWords = some (true, sensorAddress i.toPort, [x]) := by
  obtain ⟨hKind, hUpd, hAddr, hNd⟩ := commandFields_readCommand_one i true
  rw [singleRead, readWords_of_one hKind hAddr hNd, hUpd]

/-- While a snapshot is in force, an update-sourced read of an update-buffer register makes its word known
and displaces none: it can only answer the word already known of that register (R39). -/
theorem snapshotHolds_singleRead {i : RegIndex} {x w : Word}
    (hBuffered : buffered (sensorAddress i.toPort) = true)
    (h : snapshotHolds buffered (singleRead i true x w :: rest) (some known) = true) :
    ∃ known', snapshotHolds buffered rest (some known') = true ∧ KeepsWords known known' ∧
      known'.lookup (sensorAddress i.toPort) = some x := by
  obtain ⟨known', hRest, hKeeps, hMerge⟩ := snapshotHolds_exchange rfl h
  exact ⟨known', hRest, hKeeps,
    mergeSnapshot_lookup hBuffered (hMerge _ _ (singleRead_readWords i x w))⟩

/-- Two such reads of one register with only exchanges between them answer one word (R39, R209). -/
theorem singleRead_agree {i : RegIndex} {x y w w' : Word} {mid : List WireCall}
    (hBuffered : buffered (sensorAddress i.toPort) = true)
    (hMid : ∀ e ∈ mid, WireCall.isExchange e = true)
    (h : snapshotHolds buffered (singleRead i true x w :: mid ++ [singleRead i true y w'])
      (some known) = true) : x = y := by
  obtain ⟨k₁, hMidOn, -, hFirst⟩ := snapshotHolds_singleRead hBuffered h
  obtain ⟨k₂, hLast, hKept⟩ := snapshotHolds_exchanges hMid hMidOn
  obtain ⟨k₃, -, hKept', hSecond⟩ := snapshotHolds_singleRead hBuffered hLast
  have hBoth : some x = some y := (hKept' _ _ (hKept _ _ hFirst)).symm.trans hSecond
  exact Option.some.inj hBoth

end Premise

/-- Settles O59: the log up to the first read ends with a snapshot in force, whether or not that read paid
the reset duty, and the second read owes none; so both reads are of that snapshot. -/
theorem snapshotReadsAgree : Obligations.SnapshotReadsAgree := by
  intro p buffered ri f g f' g' x y pre post mid hBuffered hTrigger hExchanges hFirst hBetween hReady
    hSecond hPremise
  obtain ⟨f₁, w, hPaid, hWire, hSlot⟩ := readRegister_eq_ok hFirst
  obtain ⟨f₂, w', hNotDue, hWire', hSlot'⟩ := readRegister_eq_ok hSecond
  cases (payReset_of_ready p true hReady).symm.trans hNotDue
  rw [List.forall_mem_append] at hExchanges
  obtain ⟨hPost, hMid⟩ := hExchanges
  have hForce : SnapshotInForce f₁.wire :=
    SnapshotInForce.of_payReset ⟨pre, post, hTrigger, hPost⟩ hPaid
  have hLog : g'.wire = f₁.wire ++ (singleRead ri true x w :: mid ++ [singleRead ri true y w']) := by
    simp [hWire', hBetween, hWire]
  rw [hLog] at hPremise
  obtain ⟨known, hReads⟩ := hForce.exists_known hPremise
  have hSame : x = y := singleRead_agree hBuffered hMid hReads
  exact ⟨hSame, hSlot, hSlot'.trans hSame.symm⟩

end Sys2Proof.Machine

/-! ### Wire words taken apart and put together (spec/30_encoding.md R50, R55, R57) -/

namespace Sys2Proof

theorem getElem_toNat {n : Nat} (x : BitVec n) (i : Nat) (h : i < n) :
    x[i].toNat = x.toNat / 2 ^ i % 2 := by
  rw [← BitVec.getLsbD_eq_getElem, BitVec.getLsbD, Nat.toNat_testBit]

section CommandWord

variable (rw : Bool) (cls : BitVec 4) (upd : Bool) (addr : BitVec 6) (nd : BitVec 4)

@[simp] theorem commandWord_rw : (commandWord rw cls upd addr nd)[15] = rw := by
  have hrw := rw.toNat_lt
  have hupd := upd.toNat_lt
  refine getElem_eq_of_digit 15 (by decide) ?_
  rw [commandWord_toNat]
  omega

@[simp] theorem commandWord_cls : (commandWord rw cls upd addr nd).extractLsb' 11 4 = cls := by
  have hupd := upd.toNat_lt
  refine extractLsb'_eq_of_digits 11 ?_
  rw [commandWord_toNat]
  omega

@[simp] theorem commandWord_safe : (commandWord rw cls upd addr nd)[0] = nd[0] := by
  refine getElem_eq_of_digit 0 (by decide) ?_
  rw [commandWord_toNat, getElem_toNat]
  omega

/-- Decoding an assembled command word gives back the fields it was assembled from (R50, R84). -/
theorem commandFields_commandWord :
    let c := commandFields (commandWord rw cls upd addr nd)
    c.rw = rw ∧ c.cls = cls ∧ c.upd = upd ∧ c.addr = addr ∧ c.nd = nd ∧ c.safe = nd[0] :=
  ⟨commandWord_rw .., commandWord_cls .., commandWord_upd .., commandWord_addr ..,
    commandWord_nd .., commandWord_safe ..⟩

end CommandWord

/-- A command word is put together again from its five top bits and its fields (R50). -/
theorem commandWord_of_fields {w : Word} {rw : Bool} {cls : BitVec 4}
    (h : w.toNat / 2048 = rw.toNat * 16 + cls.toNat) :
    commandWord rw cls w[10] (w.extractLsb' 4 6) (w.extractLsb' 0 4) = w := by
  refine BitVec.eq_of_toNat_eq ?_
  rw [commandWord_toNat, getElem_toNat, extractLsb'_toNat_eq, extractLsb'_toNat_eq]
  omega

/-- A safety word is put together again from its fields (R57). -/
theorem safetyWordOf_fields (w : Word) :
    safetyWordOf w[15] w[14] w[13] w[12] (w.extractLsb' 8 4) (w.extractLsb' 0 8) = w := by
  have hw := w.isLt
  refine BitVec.eq_of_toNat_eq ?_
  simp only [safetyWordOf_toNat, getElem_toNat, extractLsb'_toNat_eq]
  omega

theorem safetyFields_safetyWordOf (noReset noSysErr noIfErr validAngle : Bool)
    (slaveId : BitVec 4) (crc : Byte) :
    safetyFields (safetyWordOf noReset noSysErr noIfErr validAngle slaveId crc) =
      ⟨noReset, noSysErr, noIfErr, validAngle, slaveId, crc⟩ := by
  have key := decodeSafetyWord_safetyWordOf noReset noSysErr noIfErr validAngle slaveId crc
  simpa only [decodeSafetyWord, Instr.safetyWord.injEq, safetyFields, SafetyFields.mk.injEq]
    using key

/-! ### The selector codes (spec/30_encoding.md R60, R66) -/

/-- The selector code an instruction is invoked by; a wire word has none (R60, R62). -/
def Instr.selectorCode (i : Instr) : Option (BitVec 5) :=
  match encode i with
  | .op5 p => some p.op
  | .cmd16 _ | .safety16 _ => none

/-- The decoder keeps the selector code: no two codes select the same instruction (R60). -/
theorem selectorCode_decodePorts (p : Ports) : (decodePorts p).selectorCode = some p.op := by
  unfold decodePorts
  split
  case h_32 =>
    refine congrArg some (BitVec.eq_of_toNat_eq (x := 0x1F#5) ?_)
    have hCode := p.op.isLt
    grind
  all_goals exact congrArg some (BitVec.eq_of_toNat_eq (Eq.symm ‹_›))

/-- The ten codes of R66(a) are those of the reserved instructions. -/
theorem Instr.isReserved_iff {i : Instr} {c : BitVec 5} (h : i.selectorCode = some c) :
    i.isReserved = true ↔
      c.toNat ∈ [0x06, 0x07, 0x0D, 0x0E, 0x0F, 0x16, 0x17, 0x1D, 0x1E, 0x1F] := by
  cases i with
  | cmdRead | cmdWrite | safetyWord => cases h
  | _ =>
    cases h
    simp [Instr.isReserved]

/-- Code 0 is that of `NOP` alone (R61). -/
theorem Instr.eq_nop_iff {i : Instr} {c : BitVec 5} (h : i.selectorCode = some c) :
    i = .nop ↔ c = 0x00 := by
  cases i with
  | cmdRead | cmdWrite | safetyWord => cases h
  | _ =>
    cases h
    simp

theorem decodePorts_eq_nop {p : Ports} (h : p.op = 0x00) : decodePorts p = .nop :=
  (Instr.eq_nop_iff (selectorCode_decodePorts p)).mpr h

/-- Settles O9: the decoded instruction carries the port's code, and the codes tell the instructions
apart. -/
theorem reservedSelectorCodesAreTheTen : Obligations.ReservedSelectorCodesAreTheTen := fun p =>
  have hCode := selectorCode_decodePorts p
  ⟨decodePorts p, rfl, Instr.isReserved_iff hCode, Instr.eq_nop_iff hCode⟩

/-! ### What decodes (spec/30_encoding.md R55, R57, R63) -/

/-- All the decoder can do with a command word: take it apart by its form, or name it in an error
(R55). -/
theorem decodeCommandWord_cases (w : Word) :
    (w.toNat / 2048 = 16 ∧ decodeCommandWord w =
        .ok (.cmdRead w[10] (w.extractLsb' 4 6) (w.extractLsb' 0 4))) ∨
      (w.toNat / 2048 = 10 ∧ decodeCommandWord w =
        .ok (.cmdWrite w[10] (w.extractLsb' 4 6) (w.extractLsb' 0 4))) ∨
      (w.toNat / 2048 ≠ 16 ∧ w.toNat / 2048 ≠ 10 ∧
        decodeCommandWord w = .error (.unknownCommandForm w)) := by
  by_cases hRead : w.toNat / 2048 = 16
  · exact .inl ⟨hRead, by simp [decodeCommandWord, commandKind_eq, hRead]⟩
  by_cases hWrite : w.toNat / 2048 = 10
  · exact .inr (.inl ⟨hWrite, by simp [decodeCommandWord, commandKind_eq, hWrite]⟩)
  · exact .inr (.inr ⟨hRead, hWrite, by simp [decodeCommandWord, commandKind_eq, hRead, hWrite]⟩)

theorem encode_of_decode_cmd16 {w : Word} {i : Instr} (h : decode (.cmd16 w) = .ok i) :
    encode i = .cmd16 w := by
  change decodeCommandWord w = .ok i at h
  rcases decodeCommandWord_cases w with ⟨hTop, hw⟩ | ⟨hTop, hw⟩ | ⟨-, -, hw⟩
  all_goals
    rw [hw] at h
    cases h
  · exact congrArg Offer.cmd16 (commandWord_of_fields hTop)
  · exact congrArg Offer.cmd16 (commandWord_of_fields hTop)

theorem encode_decodeSafetyWord (w : Word) : encode (decodeSafetyWord w) = .safety16 w :=
  congrArg Offer.safety16 (safetyWordOf_fields w)

/-- An instruction can be ill formed only by a payload that does not fit its port. -/
theorem Instr.wellFormed_of_payload {i : Instr}
    (h : ∀ w cmd pl, i = .check w cmd pl → pl.length ≤ 15) : i.wellFormed = true := by
  cases i with
  | check w cmd pl => exact decide_eq_true (h w cmd pl rfl)
  | _ => rfl

theorem payload_length_le (p : Ports) : p.payload.length ≤ 15 := by
  simp [Ports.payload]

/-- A decoded `CHECK` takes its payload from the ports (R63). -/
theorem payload_of_decodePorts {p : Ports} {w cmd : Word} {pl : List Word}
    (h : decodePorts p = .check w cmd pl) : pl = p.payload := by
  have hCode : some 0x0C#5 = some p.op := by
    rw [← selectorCode_decodePorts p, h]
    rfl
  have hCheck : decodePorts p = .check p.w p.cmd p.payload := by
    simp [decodePorts, ← Option.some.inj hCode]
  cases h.symm.trans hCheck
  rfl

theorem wellFormed_of_decode {o : Offer} {i : Instr} (h : decode o = .ok i) :
    i.wellFormed = true := by
  refine Instr.wellFormed_of_payload fun w cmd pl hCheck => ?_
  subst hCheck
  cases o with
  | op5 p => exact payload_of_decodePorts (Except.ok.inj h) ▸ payload_length_le p
  | cmd16 v => cases encode_of_decode_cmd16 h
  | safety16 v => cases h

/-- Only a command word of neither form of R55 is no instruction (assumption log 7). -/
theorem decode_eq_error_iff {o : Offer} {e : DecodeError} :
    decode o = .error e ↔ ∃ w : Word, o = .cmd16 w ∧ w.toNat / 2048 ≠ 16 ∧ w.toNat / 2048 ≠ 10 ∧
      e = .unknownCommandForm w := by
  cases o with
  | op5 p => simp [decode]
  | safety16 w => simp [decode]
  | cmd16 w =>
    have hDecode : decode (.cmd16 w) = decodeCommandWord w := rfl
    rcases decodeCommandWord_cases w with ⟨hTop, hw⟩ | ⟨hTop, hw⟩ | ⟨hRead, hWrite, hw⟩
    · simp [hDecode, hw, hTop]
    · simp [hDecode, hw, hTop]
    · simp [hDecode, hw, hRead, hWrite, eq_comm (a := e)]

/-- Settles O6: decoding undoes encoding, row by row. -/
theorem decodeOfEncodeIsTheInstruction : Obligations.DecodeOfEncodeIsTheInstruction :=
  fun _ h => decode_encode h

/-- Settles O7: a wire word is put together again from the fields it was taken apart into, and the
port `pl` has no more lanes than a well-formed payload may have words. -/
theorem wireWordsAreReadWhole : Obligations.WireWordsAreReadWhole :=
  ⟨fun _ _ h => encode_of_decode_cmd16 h,
    fun w => ⟨decodeSafetyWord w, rfl, encode_decodeSafetyWord w⟩,
    fun _ _ h => wellFormed_of_decode h⟩

/-- Settles O8: the decoder run on the words as written. -/
theorem decodingTheSpecsWords : Obligations.DecodingTheSpecsWords := by
  unfold Obligations.DecodingTheSpecsWords
  decide

end Sys2Proof

/-! ### What a step refuses (spec/30_encoding.md R55) -/

namespace Sys2Proof.Machine

/-- No operation is refused: a step is refused by its decoder alone. -/
theorem step_eq_refused_iff {s : State} {r : Refusal} :
    step s = .refused r ↔ ∃ e, decode s.nextOffer = .error e ∧ r = refusalOf e := by
  rcases step_cases s with ⟨i, hDecode, hStep⟩ | ⟨e, hDecode, hStep⟩
  · simp [hDecode, hStep, exec_eq_runOperation]
  · simp [hDecode, hStep, eq_comm]

/-- The idle selector is no command word, so a command word to run is one the host offers. -/
theorem nextOffer_eq_cmd16_iff {s : State} {w : Word} :
    s.nextOffer = .cmd16 w ↔ ∃ rest, s.offers = .cmd16 w :: rest := by
  cases h : s.offers with
  | nil => simp [nextOffer_of_nil h, idleOffer]
  | cons o rest => simp [nextOffer_of_cons h]

/-- Settles O5: what a step refuses is the decoder's one error, on a word the host offers. -/
theorem onlyUnknownCommandFormsAreRefused : Obligations.OnlyUnknownCommandFormsAreRefused := by
  intro s r
  rw [step_eq_refused_iff]
  constructor
  · rintro ⟨e, hDecode, rfl⟩
    obtain ⟨w, hOffer, hRead, hWrite, rfl⟩ := decode_eq_error_iff.mp hDecode
    obtain ⟨rest, hOffers⟩ := nextOffer_eq_cmd16_iff.mp hOffer
    exact ⟨w, rest, hOffers, hRead, hWrite, rfl⟩
  · rintro ⟨w, rest, hOffers, hRead, hWrite, rfl⟩
    have hOffer := nextOffer_eq_cmd16_iff.mpr ⟨rest, hOffers⟩
    exact ⟨_, decode_eq_error_iff.mpr ⟨w, hOffer, hRead, hWrite, rfl⟩, rfl⟩

/-! ### `NOP` and the reserved codes (spec/30_encoding.md R61, R66) -/

theorem exec_nop (s : State) : exec .nop s = .next { s with outs := {} } := rfl

/-- Settles O10: code 0 is that of `NOP`, which answers zero outputs; a step with nothing offered
runs it. -/
theorem nopChangesNoStateAndIsTheIdleOperation :
    Obligations.NopChangesNoStateAndIsTheIdleOperation :=
  ⟨fun _ h => congrArg Except.ok (decodePorts_eq_nop h), exec_nop,
    fun s h => (step_of_nil h).trans (exec_nop s)⟩

theorem exec_of_isReserved {i : Instr} (h : i.isReserved = true) (s : State) :
    exec i s = .next { s with outs := { st := .illegalOp } } := by
  cases i with
  | reserved06 | reserved07 | reserved0D | reserved0E | reserved0F | reserved16 | reserved17
  | reserved1D | reserved1E | reserved1F => rfl
  | _ => cases h

/-- Settles O11: the ten listed are reserved, and the reserved codes have one meaning. -/
theorem reservedCodesAnswerIllegalOp : Obligations.ReservedCodesAnswerIllegalOp := by
  have hReserved : ∀ i ∈ ([.reserved06, .reserved07, .reserved0D, .reserved0E, .reserved0F,
      .reserved16, .reserved17, .reserved1D, .reserved1E, .reserved1F] : List Instr),
      i.isReserved = true := by decide
  exact fun i hi s => exec_of_isReserved (hReserved i hi) s

/-! ### The index and the frame of a decoded command word (spec/30_encoding.md R58, R59) -/

/-- `REGIDX` is defined on the offsets of the column `addr` (R59). -/
theorem regIdx_isSome_iff (addr : BitVec 6) :
    (regIdx (addr.zeroExtend 16 <<< 4)).isSome = true ↔ addr.toNat ∈ sensorAddresses := by
  revert addr
  decide

/-- Where it is defined, `REGIDX` names the row of the column `addr` (R59). -/
theorem address_of_regIdx (addr : BitVec 6) :
    ∀ i ∈ regIdx (addr.zeroExtend 16 <<< 4),
      sensorAddresses[i.toPort.toNat]? = some addr.toNat := by
  revert addr
  decide

theorem commandFields_riValid_iff (w : Word) :
    (commandFields w).riValid = true ↔ (commandFields w).addr.toNat ∈ sensorAddresses :=
  regIdx_isSome_iff _

theorem commandFields_address_of_valid {w : Word} (h : (commandFields w).riValid = true) :
    sensorAddresses[(commandFields w).ri.toNat]? = some (commandFields w).addr.toNat := by
  obtain ⟨i, hi⟩ := Option.isSome_iff_exists.mp h
  have hIndex : (commandFields w).ri = i.toPort := by simp only [commandFields, hi]
  rw [hIndex]
  exact address_of_regIdx _ i hi

theorem commandFields_ri_of_invalid {w : Word} (h : (commandFields w).riValid = false) :
    (commandFields w).ri = 0 := by
  have hNone := Option.isSome_eq_false_iff.mp h
  simp only [commandFields, Option.isNone_iff_eq_none.mp hNone]

/-- The index and its validity, of an assembled command word (R59, R84). -/
theorem index_of_commandWord (rw : Bool) (cls : BitVec 4) (upd : Bool) (addr : BitVec 6)
    (nd : BitVec 4) :
    let c := commandFields (commandWord rw cls upd addr nd)
    (c.riValid = true ↔ addr.toNat ∈ sensorAddresses) ∧
      (c.riValid = true → sensorAddresses[c.ri.toNat]? = some addr.toNat) ∧
      (c.riValid = false → c.ri = 0) := by
  intro c
  have hAddr : c.addr = addr := commandWord_addr rw cls upd addr nd
  rw [← hAddr]
  exact ⟨commandFields_riValid_iff _, commandFields_address_of_valid, commandFields_ri_of_invalid⟩

theorem frameWords_toNat (nd : BitVec 4) (safe : Bool) :
    (frameWords nd safe).toNat = nd.toNat + safe.toNat := by
  revert nd safe
  decide

theorem rxn_toNat_of_read {c : CmdFields} (h : c.kind = .read) :
    c.rxn.toNat = c.nd.toNat + c.safe.toNat := by
  simp only [CmdFields.rxn, h]
  exact frameWords_toNat c.nd c.safe

theorem rxn_toNat_of_write {c : CmdFields} (h : c.kind = .write) : c.rxn.toNat = c.safe.toNat := by
  simp only [CmdFields.rxn, h]
  cases c.safe <;> rfl

/-! ### The wire words as instructions (assumption log 5) -/

theorem exec_cmdRead (upd : Bool) (addr : BitVec 6) (nd : BitVec 4) (s : State) :
    exec (.cmdRead upd addr nd) s =
      .next { s with outs :=
        { fields := .cmd (commandFields (commandWord true 0#4 upd addr nd))
          rxn := (commandFields (commandWord true 0#4 upd addr nd)).rxn } } := rfl

theorem exec_cmdWrite (upd : Bool) (addr : BitVec 6) (nd : BitVec 4) (s : State) :
    exec (.cmdWrite upd addr nd) s =
      .next { s with outs :=
        { fields := .cmd (commandFields (commandWord false 10#4 upd addr nd))
          rxn := (commandFields (commandWord false 10#4 upd addr nd)).rxn } } := rfl

theorem exec_safetyWord (noReset noSysErr noIfErr validAngle : Bool) (slaveId : BitVec 4)
    (crc : Byte) (s : State) :
    exec (.safetyWord noReset noSysErr noIfErr validAngle slaveId crc) s =
      .next { s with outs :=
        { fields := .safety ⟨noReset, noSysErr, noIfErr, validAngle, slaveId, crc⟩ } } := by
  rw [← safetyFields_safetyWordOf]
  rfl

/-- Settles O17: each word is assembled from its operands, and its fields are the operands again. -/
theorem wireWordRowsDriveTheirFields : Obligations.WireWordRowsDriveTheirFields := by
  refine ⟨fun upd addr nd s => ?_, fun upd addr nd s => ?_, exec_safetyWord⟩
  · obtain ⟨hRw, hCls, hUpd, hAddr, hNd, hSafe⟩ := commandFields_commandWord true 0#4 upd addr nd
    obtain ⟨hValid, hRow, hZero⟩ := index_of_commandWord true 0#4 upd addr nd
    have hKind : (commandFields (commandWord true 0#4 upd addr nd)).kind = .read :=
      commandKind_readWord upd addr nd
    have hRxn := rxn_toNat_of_read hKind
    rw [hNd, hSafe] at hRxn
    exact ⟨_, _, exec_cmdRead upd addr nd s, hRw, hCls, hUpd, hAddr, hNd, hSafe, hKind, hValid,
      hRow, hZero, hRxn⟩
  · obtain ⟨hRw, hCls, hUpd, hAddr, hNd, hSafe⟩ := commandFields_commandWord false 10#4 upd addr nd
    obtain ⟨hValid, hRow, hZero⟩ := index_of_commandWord false 10#4 upd addr nd
    have hKind : (commandFields (commandWord false 10#4 upd addr nd)).kind = .write :=
      commandKind_writeWord upd addr nd
    have hRxn := rxn_toNat_of_write hKind
    rw [hSafe] at hRxn
    exact ⟨_, _, exec_cmdWrite upd addr nd s, hRw, hCls, hUpd, hAddr, hNd, hSafe, hKind, hValid,
      hRow, hZero, hRxn⟩

/-! ### The pseudo-operations (spec/30_encoding.md R68) -/

theorem exec_crcInit (s : State) :
    exec .crcInit s = .next { s with crcAcc := crcSeed, outs := {} } := rfl

theorem exec_crcByte (b : Byte) (s : State) :
    exec (.crcByte b) s = .next { s with crcAcc := crcStep s.crcAcc b, outs := {} } := rfl

theorem exec_crcWord (w : Word) (s : State) :
    exec (.crcWord w) s =
      .next { s with crcAcc := crcStep (crcStep s.crcAcc (hi8 w)) (lo8 w), outs := {} } := rfl

theorem exec_crcRead (s : State) :
    exec .crcRead s = .next { s with outs := { out := (~~~ s.crcAcc).zeroExtend 16 } } := rfl

@[simp] theorem runOperations_nil (s : State) : runOperations [] s = s := rfl

@[simp] theorem runOperations_cons (i : Instr) (is : List Instr) (s : State) :
    runOperations (i :: is) s = runOperations is (runOperation i s) := rfl

theorem runOperations_append (is js : List Instr) (s : State) :
    runOperations (is ++ js) s = runOperations js (runOperations is s) :=
  List.foldl_append

/-- One `CRC_BYTE` per byte absorbs the bytes in order (R102, R104). -/
theorem crcAcc_of_crcBytes (bs : List Byte) (s : State) :
    (runOperations (bs.map fun b => .crcByte b) s).crcAcc = crcAbsorb s.crcAcc bs := by
  induction bs generalizing s with
  | nil => rfl
  | cons b bs ih =>
    rw [List.map_cons, runOperations_cons, ih, runOperation_of_exec (exec_crcByte b s),
      crcAbsorb_cons]

/-- The expansion of `CRC8` ends with the CRC on the port `out` (R68, R107). -/
theorem out_of_pseudoCrc8 (bs : List Byte) (s : State) :
    (runOperations (pseudoCrc8 bs) s).outs.out = (crc8 bs).zeroExtend 16 := by
  rw [pseudoCrc8, runOperations_append, runOperations_cons, runOperations_cons, runOperations_nil,
    runOperation_of_exec (exec_crcInit s), runOperation_of_exec (exec_crcRead _)]
  show (~~~ (runOperations (bs.map fun b => .crcByte b) _).crcAcc).zeroExtend 16 = _
  rw [crcAcc_of_crcBytes]
  rfl

/-- Settles O24: operation by operation, the expansions leave the accumulator that `crc8` and
`CRC_WORD` are defined by. -/
theorem pseudoOperationsExpandAsSaid : Obligations.PseudoOperationsExpandAsSaid := by
  refine ⟨fun bs s => ?_, fun w s => ?_⟩
  · have hByte := (crc8 bs).isLt
    rw [out_of_pseudoCrc8, BitVec.toNat_setWidth]
    omega
  · rw [exec_crcWord, pseudoCrcWord, runOperations_cons, runOperations_cons, runOperations_nil,
      runOperation_of_exec (exec_crcByte (hi8 w) s), runOperation_of_exec (exec_crcByte (lo8 w) _)]

end Sys2Proof.Machine

/-! ### The operations of the Command Codec (spec/40_command_codec.md) -/

namespace Sys2Proof

/-- An index a port may carry is that of a register (R66(b)). -/
theorem RegIndex.exists_toPort_of_le {ri : BitVec 5} (h : ri.toNat ≤ 21) :
    ∃ i : RegIndex, ri = i.toPort :=
  ⟨⟨ri.toNat, Nat.lt_succ_of_le h⟩,
    BitVec.eq_of_toNat_eq (RegIndex.toPort_toNat ⟨ri.toNat, Nat.lt_succ_of_le h⟩).symm⟩

end Sys2Proof

namespace Sys2Proof.Machine

/-! #### The index test -/

/-- Every operation with an index operand tests it first (R66(b)). -/
theorem operate_of_illegal_index {i : Instr} {ri : BitVec 5} (hi : i.indexOperand = some ri)
    (h : 21 < ri.toNat) (b : Block) : b.operate i = b.endWith .illegalOp := by
  cases i with
  | regoff | buildRd | buildWr | cacheWr | cacheRd | fldGet | fldSet | fldChk =>
    cases hi
    exact withIndex_of_ge b _ h
  | _ => cases hi

theorem exec_of_illegal_index {i : Instr} {ri : BitVec 5} (hi : i.indexOperand = some ri)
    (h : 21 < ri.toNat) (s : State) :
    exec i s = .next { s with outs := { st := .illegalOp } } := by
  rw [exec_eq_operate, operate_of_illegal_index hi h]
  rfl

/-! #### The built words as command words -/

theorem regOff_eq_ofNat (i : RegIndex) :
    regOff i = BitVec.ofNat 16 (16 * sensorAddress i.toPort) := by
  revert i
  decide

/-- `REGIDX` undoes the address map (R59). -/
theorem regIdx_addressField (i : RegIndex) :
    regIdx ((addressField i).zeroExtend 16 <<< 4) = some i := by
  revert i
  decide

theorem readCommand_eq (i : RegIndex) (upd safe : Bool) (len : BitVec 4) :
    readCommand i upd safe len =
      commandWord true 0#4 upd (addressField i) (len ||| (if safe then 1 else 0)) := by
  rw [readCommand_eq_commandWord]
  cases safe <;> rfl

theorem writeCommand_eq (i : RegIndex) (safe : Bool) :
    writeCommand i safe = commandWord false 10#4 false (addressField i) (if safe then 1 else 0) := by
  revert i safe
  decide

/-- A word that carries the address of a register decodes to that register's index (R84). -/
theorem commandFields_index {w : Word} {i : RegIndex} (h : (commandFields w).addr = addressField i) :
    (commandFields w).riValid = true ∧ (commandFields w).ri = i.toPort := by
  have hIndex : regIdx ((w.extractLsb' 4 6).zeroExtend 16 <<< 4) = some i :=
    (congrArg (fun a : BitVec 6 => regIdx (a.zeroExtend 16 <<< 4)) h).trans (regIdx_addressField i)
  simp [commandFields, hIndex]

/-! #### What each operation answers -/

theorem operate_regoff (b : Block) (ri : BitVec 5) :
    b.operate (.regoff ri) = withIndex ri b fun i => b.drive { out := regOff i } := rfl

theorem operate_buildRd (b : Block) (ri : BitVec 5) (upd safe : Bool) (len : BitVec 4) :
    b.operate (.buildRd ri upd safe len) = withIndex ri b fun i => b.drive
      { out := readCommand i upd safe len
        rxn := frameWords ((readCommand i upd safe len).extractLsb' 0 4) safe } := rfl

theorem operate_buildWr (b : Block) (ri : BitVec 5) (safe : Bool) :
    b.operate (.buildWr ri safe) =
      withIndex ri b fun i => b.drive { out := writeCommand i safe } := rfl

theorem exec_regoff (i : RegIndex) (s : State) :
    exec (.regoff i.toPort) s = .next { s with outs := { out := regOff i } } := by
  rw [exec_eq_operate, operate_regoff, withIndex_toPort]
  rfl

/-- `BUILD_RD` counts the words to receive from the nibble of the word it built (R82, D23). -/
theorem exec_buildRd (i : RegIndex) (upd safe : Bool) (len : BitVec 4) (s : State) :
    exec (.buildRd i.toPort upd safe len) s = .next { s with outs :=
      { out := commandWord true 0#4 upd (addressField i) (len ||| (if safe then 1 else 0))
        rxn := frameWords (len ||| (if safe then 1 else 0)) safe } } := by
  rw [exec_eq_operate, operate_buildRd, withIndex_toPort, readCommand_eq, commandWord_nd]
  rfl

theorem exec_buildWr (i : RegIndex) (safe : Bool) (s : State) :
    exec (.buildWr i.toPort safe) s = .next { s with outs :=
      { out := commandWord false 10#4 false (addressField i) (if safe then 1 else 0) } } := by
  rw [exec_eq_operate, operate_buildWr, withIndex_toPort, writeCommand_eq]
  rfl

theorem exec_decCmd (w : Word) (s : State) :
    exec (.decCmd w) s = .next { s with outs :=
      { fields := .cmd (commandFields w), rxn := (commandFields w).rxn } } := rfl

theorem exec_decSafe (w : Word) (s : State) :
    exec (.decSafe w) s = .next { s with outs := { fields := .safety (safetyFields w) } } := rfl

/-! #### Building (R81, R82, R83) -/

/-- A flag at a place of the word counts its place or nothing. -/
theorem toNat_mul_eq_ite (flag : Bool) (n : Nat) : flag.toNat * n = if flag then n else 0 := by
  cases flag
  · exact Nat.zero_mul n
  · exact Nat.one_mul n

/-- The safety flag in the low nibble of a word (R82, R83). -/
theorem flagNibble_toNat (safe : Bool) :
    (if safe then 1 else 0 : BitVec 4).toNat = safe.toNat := by
  cases safe <;> rfl

/-- Settles O12: the offset table is the column `addr` of R59, shifted. -/
theorem regoffReturnsTheMappedOffset : Obligations.RegoffReturnsTheMappedOffset := by
  refine ⟨fun p h => by simp [decode, decodePorts, h], fun ri s => ⟨fun h => ?_, fun h => ?_⟩⟩
  · obtain ⟨i, rfl⟩ := RegIndex.exists_toPort_of_le h
    rw [exec_regoff, regOff_eq_ofNat]
  · exact exec_of_illegal_index rfl h s

/-- Settles O13: the built word is the command word of its fields, whose value is their sum. -/
theorem buildReadComposesTheWord : Obligations.BuildReadComposesTheWord := by
  refine ⟨fun p h => by simp [decode, decodePorts, h],
    fun ri upd safe len s => ⟨fun h => ?_, fun h => ?_⟩⟩
  · obtain ⟨i, rfl⟩ := RegIndex.exists_toPort_of_le h
    refine ⟨_, _, exec_buildRd i upd safe len s, ?_, ?_⟩
    · rw [commandWord_toNat, addressField_toNat, toNat_mul_eq_ite upd, Bool.toNat_true]
      simp only [BitVec.toNat_ofNat]
      omega
    · rw [frameWords_toNat, Bool.toNat, Bool.cond_eq_ite]
  · exact exec_of_illegal_index rfl h s

/-- Settles O14: as for `BUILD_RD`, with the flag alone in the low nibble. -/
theorem buildWriteComposesTheWord : Obligations.BuildWriteComposesTheWord := by
  refine ⟨fun p h => by simp [decode, decodePorts, h],
    fun ri safe s => ⟨fun h => ?_, fun h => ?_⟩⟩
  · obtain ⟨i, rfl⟩ := RegIndex.exists_toPort_of_le h
    refine ⟨_, exec_buildWr i safe s, ?_⟩
    rw [commandWord_toNat, addressField_toNat, flagNibble_toNat, Bool.toNat_false,
      Bool.toNat, Bool.cond_eq_ite]
    simp only [BitVec.toNat_ofNat]
    omega
  · exact exec_of_illegal_index rfl h s

/-! #### Decoding (R84, R85) -/

/-- The top bit of a word says in which half of the numbers it lies. -/
theorem getElem_15_eq_decide (w : Word) : w[15] = decide (0x8000 ≤ w.toNat) := by
  have hw := w.isLt
  rw [getElem_eq_decide, decide_eq_decide]
  omega

/-- The lowest bit of a word is its parity. -/
theorem getElem_zero_eq_decide (w : Word) : w[0] = decide (w.toNat % 2 = 1) := by
  rw [getElem_eq_decide, pow_zero, Nat.div_one]

theorem commandKind_eq_read_iff (w : Word) : commandKind w = .read ↔ w.toNat / 2048 = 16 := by
  rw [commandKind_eq]
  split_ifs <;> simp_all

theorem commandKind_eq_write_iff (w : Word) : commandKind w = .write ↔ w.toNat / 2048 = 10 := by
  rw [commandKind_eq]
  split_ifs <;> simp_all

theorem rxn_of_other {c : CmdFields} (h : c.kind = .other) : c.rxn = 0 := by
  simp only [CmdFields.rxn, h]

/-- Settles O15: every field is a digit group of the word; the index and `rxn` follow from them. -/
theorem decodeCommandReturnsTheFields : Obligations.DecodeCommandReturnsTheFields := by
  refine ⟨fun p h => by simp [decode, decodePorts, h], fun w s => ⟨commandFields w, _,
    exec_decCmd w s, getElem_15_eq_decide w, extractLsb'_toNat_eq 11 4 w,
    getElem_eq_decide w 10 _, extractLsb'_toNat_eq 4 6 w, ?_, getElem_zero_eq_decide w,
    commandKind_eq_read_iff w, commandKind_eq_write_iff w, commandFields_riValid_iff w,
    commandFields_address_of_valid, commandFields_ri_of_invalid, ?_⟩⟩
  · exact (extractLsb'_toNat_eq 0 4 w).trans (by simp)
  · cases hKind : (commandFields w).kind with
    | read => exact rxn_toNat_of_read hKind
    | write => exact rxn_toNat_of_write hKind
    | other => exact congrArg BitVec.toNat (rxn_of_other hKind)

/-- Settles O16: every field is a digit group of the word. -/
theorem decodeSafetyReturnsTheFields : Obligations.DecodeSafetyReturnsTheFields := by
  refine ⟨fun p h => by simp [decode, decodePorts, h], fun w s => ⟨safetyFields w,
    exec_decSafe w s, ?_, getElem_eq_decide w 14 _, getElem_eq_decide w 13 _,
    getElem_eq_decide w 12 _, extractLsb'_toNat_eq 8 4 w, ?_⟩⟩
  · have hw := w.isLt
    show w[15] = _
    rw [getElem_eq_decide, decide_eq_decide]
    omega
  · exact (extractLsb'_toNat_eq 0 8 w).trans (by simp)

/-! #### Decoding a built word (R86) -/

/-- Bit 0 of the built nibble is the flag or the length's own bit 0 (assumption log 25). -/
theorem getElem_zero_or_flag (safe : Bool) (len : BitVec 4) :
    (len ||| (if safe then 1 else 0))[0] = (safe || len[0]) := by
  cases safe <;> simp

/-- Settles O18: the built word is assembled from its parts, and decoding gives them back. -/
theorem decodingABuiltReadRecoversItsParts : Obligations.DecodingABuiltReadRecoversItsParts := by
  intro ri upd safe len s h
  obtain ⟨i, rfl⟩ := RegIndex.exists_toPort_of_le h
  obtain ⟨-, -, hUpd, hAddr, hNd, hSafe⟩ :=
    commandFields_commandWord true 0#4 upd (addressField i) (len ||| (if safe then 1 else 0))
  obtain ⟨hValid, hIndex⟩ := commandFields_index hAddr
  exact ⟨_, _, _, exec_buildRd i upd safe len s, exec_decCmd _ _, rfl, commandKind_readWord _ _ _,
    hUpd, (congrArg BitVec.toNat hAddr).trans (addressField_toNat i), hValid, hIndex, hNd,
    hSafe.trans (getElem_zero_or_flag safe len)⟩

/-- Refutes O19: reading one word of `STAT` without the flag builds `0x8001`, whose bit 0 is set. -/
theorem not_decodedSafetyFlagIsTheOneGiven : ¬ Obligations.DecodedSafetyFlagIsTheOneGiven := by
  intro hGiven
  obtain ⟨t, u, c, hBuild, hDecode, hFields, -, -, -, -, -, -, hSafe⟩ :=
    hGiven RegIndex.stat.toPort false false 1 State.reset (by decide)
  cases (exec_buildRd RegIndex.stat false false 1 State.reset).symm.trans hBuild
  cases (exec_decCmd _ _).symm.trans hDecode
  cases hFields
  exact absurd hSafe (by decide)

/-- With the flag, a length and the same length with bit 0 set build one word (R54, R86(d)). -/
theorem exec_buildRd_or_one (ri : BitVec 5) (upd : Bool) (len : BitVec 4) (s : State) :
    exec (.buildRd ri upd true len) s = exec (.buildRd ri upd true (len ||| 1)) s := by
  rcases Nat.lt_or_ge 21 ri.toNat with h | h
  · rw [exec_of_illegal_index rfl h, exec_of_illegal_index rfl h]
  · obtain ⟨i, rfl⟩ := RegIndex.exists_toPort_of_le h
    have hNibble : len ||| 1 ||| 1 = len ||| 1 := by rw [BitVec.or_assoc, BitVec.or_self]
    simp only [exec_buildRd, if_true, hNibble]

/-- Settles O20: decoding gives back a built write's parts; the flag sets bit 0 of the length. -/
theorem builtWritesDecodeAndEvenLengthsRoundUp :
    Obligations.BuiltWritesDecodeAndEvenLengthsRoundUp := by
  refine ⟨fun ri safe s h => ?_, exec_buildRd_or_one⟩
  obtain ⟨i, rfl⟩ := RegIndex.exists_toPort_of_le h
  obtain ⟨-, -, hUpd, hAddr, hNd, -⟩ :=
    commandFields_commandWord false 10#4 false (addressField i) (if safe then 1 else 0)
  obtain ⟨hValid, hIndex⟩ := commandFields_index hAddr
  refine ⟨_, _, _, exec_buildWr i safe s, exec_decCmd _ _, rfl, commandKind_writeWord _ _ _,
    hUpd, hValid, hIndex, ?_⟩
  rw [hNd, flagNibble_toNat]

end Sys2Proof.Machine

/-! ### The CRC rounds on plain numbers (spec/41_crc8_safety_validator.md R101, R105, R106) -/

namespace Sys2Proof.Machine

/-- A round doubles within the byte; what the top bit adds is the polynomial (R101). -/
theorem crcRound_eq (a : Byte) : crcRound a = (a <<< 1) ^^^ (if a[7] then 0x1D else 0) := by
  unfold crcRound
  split <;> simp

theorem crcRound_toNat (a : Byte) : (crcRound a).toNat = crcRoundNat a.toNat := by
  have ha := a.isLt
  have hTop : a[7] = true ↔ 128 ≤ a.toNat := by
    rw [getElem_eq_decide, decide_eq_true_iff]
    omega
  have hShift : (a <<< 1).toNat = 2 * a.toNat % 256 := by
    rw [BitVec.toNat_shiftLeft, Nat.shiftLeft_eq, Nat.mul_comm]
  simp only [crcRound, crcRoundNat, hTop]
  split
  · rw [BitVec.toNat_xor, hShift, show 2 * a.toNat % 256 = 2 * a.toNat - 256 by omega]
    rfl
  · omega

theorem crcRounds_toNat (n : Nat) (a : Byte) : (crcRounds n a).toNat = crcRoundNat^[n] a.toNat := by
  induction n generalizing a with
  | zero => rfl
  | succ n ih => rw [crcRounds, ih, crcRound_toNat, Function.iterate_succ_apply]

theorem crcStep_toNat (acc b : Byte) : (crcStep acc b).toNat = crcStepNat acc.toNat b.toNat := by
  rw [crcStep, crcRounds_toNat, BitVec.toNat_xor, crcStepNat]

@[simp] theorem crcAbsorb_wordBytes (acc : Byte) (w : Word) :
    crcAbsorb acc (wordBytes w) = crcStep (crcStep acc (hi8 w)) (lo8 w) := rfl

theorem crcAbsorb_wordBytes_toNat (acc : Byte) (w : Word) :
    (crcAbsorb acc (wordBytes w)).toNat = crcWordNat acc.toNat w.toNat := by
  rw [crcAbsorb_wordBytes, crcStep_toNat, crcStep_toNat, hi8_toNat, lo8_toNat, crcWordNat]

/-- The bytes of a transaction are those of its words, the command word first (R105). -/
theorem txBytes_eq_flatMap (cmd : Word) (pl : List Word) :
    txBytes cmd pl = (cmd :: pl).flatMap wordBytes := rfl

theorem crcAbsorb_words_toNat (acc : Byte) (ws : List Word) :
    (crcAbsorb acc (ws.flatMap wordBytes)).toNat =
      ws.foldl (fun a x => crcWordNat a x.toNat) acc.toNat := by
  induction ws generalizing acc with
  | nil => rfl
  | cons w ws ih =>
    rw [List.flatMap_cons, crcAbsorb_append, ih, crcAbsorb_wordBytes_toNat, List.foldl_cons]

/-- A byte is given by its number. -/
theorem eq_ofNat_of_toNat_eq {a : Byte} {n : Nat} (h : a.toNat = n) : a = BitVec.ofNat 8 n := by
  rw [← h, BitVec.ofNat_toNat, BitVec.setWidth_eq]

/-- The final complement on plain numbers (R102). -/
theorem crc8_toNat (bs : List Byte) : (crc8 bs).toNat = 255 - (crcAbsorb crcSeed bs).toNat :=
  BitVec.toNat_not

/-- Settles O21: the number of a byte after eight rounds is eight rounds of its number. -/
theorem streamingOperationsFollowTheRounds : Obligations.StreamingOperationsFollowTheRounds := by
  refine ⟨fun p => ⟨fun h => ?_, fun h => ?_, fun h => ?_, fun h => ?_⟩, crcStep_toNat,
    fun s b w => ⟨exec_crcInit s, ?_, ?_, ?_⟩⟩
  iterate 4 simp [decode, decodePorts, h]
  · rw [exec_crcByte, eq_ofNat_of_toNat_eq (crcStep_toNat s.crcAcc b)]
  · rw [exec_crcWord, ← crcAbsorb_wordBytes,
      eq_ofNat_of_toNat_eq (crcAbsorb_wordBytes_toNat s.crcAcc w)]
  · have hOut : (~~~ s.crcAcc).zeroExtend 16 = BitVec.ofNat 16 (255 - s.crcAcc.toNat) :=
      BitVec.eq_of_toNat_eq (by
        rw [BitVec.toNat_setWidth, BitVec.toNat_not, BitVec.toNat_ofNat])
    rw [exec_crcRead, hOut]

/-! ### The CRC as a linear map (spec/41_crc8_safety_validator.md R112) -/

theorem crcRound_xor (a b : Byte) : crcRound (a ^^^ b) = crcRound a ^^^ crcRound b := by
  have hTop : (if (a ^^^ b)[7] then 0x1D else 0 : Byte) =
      (if a[7] then 0x1D else 0 : Byte) ^^^ (if b[7] then 0x1D else 0 : Byte) := by
    rw [BitVec.getElem_xor]
    cases a[7] <;> cases b[7] <;> rfl
  rw [crcRound_eq, crcRound_eq, crcRound_eq, hTop, BitVec.shiftLeft_xor_distrib]
  ac_rfl

theorem crcRounds_xor (n : Nat) (a b : Byte) :
    crcRounds n (a ^^^ b) = crcRounds n a ^^^ crcRounds n b := by
  induction n generalizing a b with
  | zero => rfl
  | succ n ih => rw [crcRounds, crcRound_xor, ih, crcRounds, crcRounds]

theorem crcStep_xor (a a' b b' : Byte) :
    crcStep (a ^^^ a') (b ^^^ b') = crcStep a b ^^^ crcStep a' b' := by
  rw [crcStep, crcStep, crcStep, ← crcRounds_xor]
  congr 1
  ac_rfl

theorem crcAbsorb_xor (a a' : Byte) {x y : List Byte} (h : x.length = y.length) :
    crcAbsorb (a ^^^ a') (xorBytes x y) = crcAbsorb a x ^^^ crcAbsorb a' y := by
  induction x generalizing y a a' with
  | nil =>
    obtain rfl := List.length_eq_zero_iff.mp h.symm
    rfl
  | cons b x ih =>
    obtain ⟨b', y, rfl⟩ := List.exists_cons_of_length_eq_add_one h.symm
    have hTail := ih (crcStep a b) (crcStep a' b') (Nat.succ.inj h)
    rwa [← crcStep_xor] at hTail

theorem crc8_xor_xor {x y z : List Byte} (hxy : x.length = y.length) (hyz : y.length = z.length) :
    crc8 x ^^^ crc8 y ^^^ crc8 z = crc8 (xorBytes (xorBytes x y) z) := by
  have hLength : (xorBytes x y).length = z.length := by simp [xorBytes, hxy, hyz]
  have hSeed : crcSeed = crcSeed ^^^ crcSeed ^^^ crcSeed := rfl
  calc crc8 x ^^^ crc8 y ^^^ crc8 z
      = ~~~ (crcAbsorb crcSeed x ^^^ crcAbsorb crcSeed y ^^^ crcAbsorb crcSeed z) := by
        simp only [crc8, ← BitVec.not_xor_left, ← BitVec.not_xor_right, BitVec.not_not]
    _ = ~~~ crcAbsorb (crcSeed ^^^ crcSeed ^^^ crcSeed) (xorBytes (xorBytes x y) z) := by
        rw [crcAbsorb_xor _ _ hLength, crcAbsorb_xor _ _ hxy]
    _ = crc8 (xorBytes (xorBytes x y) z) := by rw [← hSeed, crc8]

/-- A round loses nothing: bit 0 of its result tells whether the top bit was shifted out. -/
theorem eq_zero_of_crcRound {a : Byte} (h : crcRound a = 0) : a = 0 := by
  have hNat : 0 = crcRoundNat a.toNat := (congrArg BitVec.toNat h).symm.trans (crcRound_toNat a)
  refine BitVec.eq_of_toNat_eq (?_ : a.toNat = 0)
  unfold crcRoundNat at hNat
  split at hNat
  · have hOdd := Nat.xor_eq_zero_iff.mp hNat.symm
    omega
  · omega

theorem crcRound_injective : Function.Injective crcRound := by
  intro a b h
  have hZero : crcRound (a ^^^ b) = 0 := by rw [crcRound_xor, h, BitVec.xor_self]; rfl
  exact BitVec.xor_eq_zero_iff.mp (eq_zero_of_crcRound hZero)

theorem crcRounds_injective (n : Nat) : Function.Injective (crcRounds n) := by
  induction n with
  | zero => exact fun _ _ h => h
  | succ n ih => exact ih.comp crcRound_injective

theorem crcStep_eq_iff {acc b acc' b' : Byte} :
    crcStep acc b = crcStep acc' b' ↔ acc ^^^ b = acc' ^^^ b' :=
  (crcRounds_injective 8).eq_iff

/-- Different accumulators stay different under the same bytes. -/
theorem crcAbsorb_injective (bs : List Byte) : Function.Injective (crcAbsorb · bs) := by
  induction bs with
  | nil => exact fun _ _ h => h
  | cons b bs ih => exact fun _ _ h => (BitVec.xor_left_inj b).mp (crcStep_eq_iff.mp (ih h))

/-- Changing one byte changes the CRC. -/
theorem crc8_eq_iff_of_one_byte (pre post : List Byte) (b b' : Byte) :
    crc8 (pre ++ b :: post) = crc8 (pre ++ b' :: post) ↔ b = b' := by
  rw [crc8, crc8, BitVec.not_inj, crcAbsorb_append, crcAbsorb_append]
  exact (crcAbsorb_injective post).eq_iff.trans (crcStep_eq_iff.trans (BitVec.xor_right_inj _))

/-- Each of the eight bits has its place in a byte. -/
theorem singleBit_ne_zero {j : Nat} (hj : j < 8) : BitVec.ofNat 8 (1 <<< j) ≠ 0#8 := by
  intro h
  have hNumber := congrArg BitVec.toNat h
  have hFits : 2 ^ j < 2 ^ 8 := Nat.pow_lt_pow_right (by decide) hj
  rw [BitVec.toNat_ofNat, Nat.one_shiftLeft, Nat.mod_eq_of_lt hFits] at hNumber
  exact (Nat.two_pow_pos j).ne' hNumber

/-- Settles O22: rounds commute with XOR, and no round takes two bytes to one. -/
theorem crcIsLinearAndSeesEverySingleBit : Obligations.CrcIsLinearAndSeesEverySingleBit := by
  refine ⟨crcStep_xor, by decide, fun _ _ _ => crc8_xor_xor, fun pre post b j hj h => ?_⟩
  have hSame : b ^^^ (1 <<< j) = b := (crc8_eq_iff_of_one_byte pre post _ _).mp h
  exact singleBit_ne_zero hj (by simpa using hSame)

/-! ### A streamed transaction (spec/41_crc8_safety_validator.md R110) -/

/-- One `CRC_WORD` per word absorbs the words in order, each high byte first (R106). -/
theorem crcAcc_of_crcWords (ws : List Word) (s : State) :
    (runOperations (ws.map fun w => .crcWord w) s).crcAcc =
      crcAbsorb s.crcAcc (ws.flatMap wordBytes) := by
  induction ws generalizing s with
  | nil => rfl
  | cons w ws ih =>
    rw [List.map_cons, runOperations_cons, ih, runOperation_of_exec (exec_crcWord w s),
      List.flatMap_cons, crcAbsorb_append, crcAbsorb_wordBytes]

theorem crcAcc_of_streamTransaction (cmd : Word) (pl : List Word) (s : State) :
    (runOperations (streamTransaction cmd pl) s).crcAcc = crcAbsorb crcSeed (txBytes cmd pl) := by
  rw [streamTransaction, runOperations_cons, crcAcc_of_crcWords,
    runOperation_of_exec (exec_crcInit s), txBytes_eq_flatMap]

/-! ### `CHECK` (spec/41_crc8_safety_validator.md R108, R109) -/

theorem statusBitsError_eq_none_iff (w : Word) :
    statusBitsError w = none ↔ w[14] = true ∧ w[13] = true ∧ w[12] = true := by
  rcases statusBitsError_cases w with ⟨h14, h⟩ | ⟨h14, h13, h⟩ | ⟨h14, h13, h12, h⟩ |
    ⟨h14, h13, h12, h⟩ <;> simp [*]

/-- The code of a `CHECK`: the status bits decide, or the CRC does (R108). -/
def checkCode (w cmd : Word) (pl : List Word) : ResultCode :=
  (statusBitsError w).getD (crcVerdict w cmd pl)

/-- What a `CHECK` answers: `SAFETY_LAST` is the safety word, `CRC_ACC` is written only when the CRC
is computed. -/
theorem exec_check (w cmd : Word) (pl : List Word) (s : State) :
    exec (.check w cmd pl) s = .next
      { s with
        safetyLast := some w
        crcAcc := if statusBitsError w = none then crcAbsorb crcSeed (txBytes cmd pl) else s.crcAcc
        outs := { st := checkCode w cmd pl, resetReq := resetRequest (checkCode w cmd pl) } } := by
  rw [exec_eq_operate]
  cases h : statusBitsError w with
  | some c =>
    rw [operate_check_of_status h, checkCode, h]
    rfl
  | none =>
    rw [operate_check_of_crc h, checkCode, h]
    rfl

theorem checkCode_of_status_ones {w : Word} (h14 : w[14] = true) (h13 : w[13] = true)
    (h12 : w[12] = true) (cmd : Word) (pl : List Word) :
    checkCode w cmd pl = crcVerdict w cmd pl := by
  rw [checkCode, (statusBitsError_eq_none_iff w).mpr ⟨h14, h13, h12⟩, Option.getD_none]

theorem crcVerdict_eq_ok_iff (w cmd : Word) (pl : List Word) :
    crcVerdict w cmd pl = .ok ↔ lo8 w = crc8 (txBytes cmd pl) := by
  rw [crcVerdict, eq_comm (a := lo8 w)]
  split <;> simp [*]

theorem crcVerdict_of_ne {w cmd : Word} {pl : List Word} (h : lo8 w ≠ crc8 (txBytes cmd pl)) :
    crcVerdict w cmd pl = .crcError :=
  if_neg h.symm

/-- Settles O23: the streamed words and the one-shot CRC absorb the same bytes from the seed. -/
theorem streamingAgreesWithOneShot : Obligations.StreamingAgreesWithOneShot := by
  intro cmd pl s
  refine ⟨⟨_, exec_crcRead _, ?_⟩, fun w h14 h13 h12 => ⟨_, exec_check w cmd pl s, ?_⟩⟩
  · show ((~~~ (runOperations (streamTransaction cmd pl) s).crcAcc).zeroExtend 16).toNat = _
    rw [crcAcc_of_streamTransaction]
    exact BitVec.toNat_setWidth_of_le (by decide)
  · rw [crcAcc_of_streamTransaction]
    exact if_pos ((statusBitsError_eq_none_iff w).mpr ⟨h14, h13, h12⟩)

/-- Settles O26: past the status bits, the code is the verdict on the CRC byte. -/
theorem checkAcceptsExactlyTheRightCrc : Obligations.CheckAcceptsExactlyTheRightCrc := by
  intro w cmd pl s h14 h13 h12
  have hCode := checkCode_of_status_ones h14 h13 h12 cmd pl
  exact ⟨_, exec_check w cmd pl s, hCode ▸ crcVerdict_eq_ok_iff w cmd pl,
    fun h => hCode.trans (crcVerdict_of_ne h)⟩

section UnexaminedBits

variable {w w' : Word} (h : w &&& 0x70FF = w' &&& 0x70FF)

include h

/-- Words that agree under the mask agree on every bit of the mask. -/
theorem getElem_eq_of_examined (i : Nat) (hi : i < 16) (hMask : (0x70FF : Word)[i] = true) :
    w[i] = w'[i] := by
  have hBit := congrArg (·[i]) h
  simpa only [BitVec.getElem_and, hMask, Bool.and_true] using hBit

theorem statusBitsError_congr : statusBitsError w = statusBitsError w' := by
  simp only [statusBitsError, getElem_eq_of_examined h 14 (by decide) rfl,
    getElem_eq_of_examined h 13 (by decide) rfl, getElem_eq_of_examined h 12 (by decide) rfl]

theorem lo8_congr : lo8 w = lo8 w' := by
  have hLow (v : Word) : lo8 (v &&& 0x70FF) = lo8 v := by
    rw [lo8, BitVec.extractLsb'_and]
    exact BitVec.and_allOnes
  rw [← hLow w, h, hLow w']

theorem checkCode_congr (cmd : Word) (pl : List Word) :
    checkCode w cmd pl = checkCode w' cmd pl := by
  rw [checkCode, checkCode, crcVerdict, crcVerdict, statusBitsError_congr h, lo8_congr h]

end UnexaminedBits

/-- Settles O27: status bits and CRC byte are all of the safety word that the code depends on. -/
theorem checkIgnoresTheUnexaminedBits : Obligations.CheckIgnoresTheUnexaminedBits := by
  intro w w' cmd pl s s' h
  have hOuts := congrArg (fun c => ({ st := c, resetReq := resetRequest c } : Outputs))
    (checkCode_congr h cmd pl)
  refine ⟨_, _, exec_check w cmd pl s, exec_check w' cmd pl s', hOuts, fun h14 h13 h12 => ?_⟩
  have hStatus := (statusBitsError_eq_none_iff w).mpr ⟨h14, h13, h12⟩
  exact (if_pos hStatus).trans (if_pos (statusBitsError_congr h ▸ hStatus)).symm

/-! #### `CHECK` on plain numbers -/

/-- The accumulator after a transaction, on plain numbers (R105, R106). -/
def txAccNat (cmd : Word) (pl : List Word) : Nat :=
  (cmd :: pl).foldl (fun a x => crcWordNat a x.toNat) 0xFF

theorem crcAbsorb_txBytes_toNat (cmd : Word) (pl : List Word) :
    (crcAbsorb crcSeed (txBytes cmd pl)).toNat = txAccNat cmd pl :=
  crcAbsorb_words_toNat crcSeed (cmd :: pl)

/-- The comparison of the CRC bytes on plain numbers (R108 step 4). -/
theorem crc8_txBytes_eq_lo8_iff (w cmd : Word) (pl : List Word) :
    crc8 (txBytes cmd pl) = lo8 w ↔ 255 - txAccNat cmd pl = w.toNat % 256 := by
  rw [← BitVec.toNat_inj, crc8_toNat, lo8_toNat, crcAbsorb_txBytes_toNat]

theorem checkCode_eq (w cmd : Word) (pl : List Word) :
    checkCode w cmd pl =
      if w[14] = false then .systemError
      else if w[13] = false then .interfaceAccessError
      else if w[12] = false then .invalidAngleError
      else if 255 - txAccNat cmd pl = w.toNat % 256 then .ok else .crcError := by
  rw [checkCode, crcVerdict, if_congr (crc8_txBytes_eq_lo8_iff w cmd pl) rfl rfl]
  rcases statusBitsError_cases w with ⟨h14, h⟩ | ⟨h14, h13, h⟩ | ⟨h14, h13, h12, h⟩ |
    ⟨h14, h13, h12, h⟩ <;> simp [*]

/-- The CRC was computed exactly when the code is one of its two verdicts. -/
theorem statusBitsError_eq_none_iff_checkCode (w cmd : Word) (pl : List Word) :
    statusBitsError w = none ↔ checkCode w cmd pl = .ok ∨ checkCode w cmd pl = .crcError := by
  rw [checkCode]
  rcases statusBitsError_cases w with ⟨-, h⟩ | ⟨-, -, h⟩ | ⟨-, -, -, h⟩ | ⟨-, -, -, h⟩ <;> rw [h]
  iterate 3 simp
  rw [crcVerdict]
  split <;> simp

theorem resetRequest_eq_decide (c : ResultCode) :
    resetRequest c = decide (c = .systemError ∨ c = .crcError) := by
  cases c <;> rfl

/-- Settles O25: the code's ordered tests are those of the spec on plain numbers. -/
theorem checkFollowsItsOrderedTests : Obligations.CheckFollowsItsOrderedTests := by
  refine ⟨fun p h => ⟨p.payload, by simp [decode, decodePorts, h], ?_⟩, fun w cmd pl s _ => ?_⟩
  · have hCount := p.pn.isLt
    rw [Ports.payload, List.length_take, Vector.length_toList]
    omega
  · intro acc st
    have hAcc : crcAbsorb crcSeed (txBytes cmd pl) = BitVec.ofNat 8 acc :=
      eq_ofNat_of_toNat_eq (crcAbsorb_txBytes_toNat cmd pl)
    have hCode : checkCode w cmd pl = st := checkCode_eq w cmd pl
    rw [exec_check, resetRequest_eq_decide,
      if_congr (statusBitsError_eq_none_iff_checkCode w cmd pl) rfl rfl, hCode, hAcc]

end Sys2Proof.Machine

/-! ### The Register Model's operations (spec/42_register_bitfield.md section 2) -/

namespace Sys2Proof

theorem RegIndex.eq_toPort_of_toNat_eq {ri : BitVec 5} {i : RegIndex} (h : ri.toNat = i.val) :
    ri = i.toPort :=
  BitVec.eq_of_toNat_eq (h.trans i.toPort_toNat.symm)

theorem inBlock_eq_decide (i : RegIndex) :
    inBlock i = decide (8 ≤ i.val ∧ i.val ≤ 15) := by
  simp [inBlock]

/-! #### Access rights (R123) -/

theorem Descriptor.readable_iff (d : Descriptor) :
    d.readable = true ↔ d.acc.res = false ∧ d.acc.r = true := by
  simp [Descriptor.readable]

theorem Descriptor.writable_iff (d : Descriptor) :
    d.writable = true ↔ d.acc.res = false ∧ d.acc.w = true := by
  simp [Descriptor.writable]

theorem Descriptor.readable_eq_false_iff (d : Descriptor) :
    d.readable = false ↔ d.acc.res = true ∨ d.acc.r = false := by
  simp [Descriptor.readable, Decidable.or_iff_not_imp_left]

theorem Descriptor.writable_eq_false_iff (d : Descriptor) :
    d.writable = false ↔ d.acc.res = true ∨ d.acc.w = false := by
  simp [Descriptor.writable, Decidable.or_iff_not_imp_left]

/-! #### Extraction and insertion, bit by bit (R124, R126, R129) -/

theorem Descriptor.getLsbD_extract (d : Descriptor) (raw : Word) (j : Nat) :
    (d.extract raw).getLsbD j =
      (raw.getLsbD (j + d.pos.toNat) && d.mask.getLsbD (j + d.pos.toNat)) := by
  rw [Descriptor.extract, BitVec.getLsbD_ushiftRight, BitVec.getLsbD_and, Nat.add_comm]

theorem Descriptor.getLsbD_insert (d : Descriptor) (c v : Word) {j : Nat} (hj : j < 16) :
    (d.insert c v).getLsbD j =
      if d.mask.getLsbD j then decide (d.pos.toNat ≤ j) && v.getLsbD (j - d.pos.toNat)
      else c.getLsbD j := by
  simp only [Descriptor.insert, BitVec.getLsbD_or, BitVec.getLsbD_and, BitVec.getLsbD_not,
    BitVec.getLsbD_shiftLeft, hj, ← Nat.not_lt, decide_not]
  cases d.mask.getLsbD j <;> simp

/-- Extraction takes back what insertion put in, but for the bits that did not fit the field (R129). -/
theorem Descriptor.extract_insert (d : Descriptor) (c v : Word) :
    d.extract (d.insert c v) = v &&& (d.mask >>> d.pos.toNat) := by
  refine BitVec.eq_of_getLsbD_eq fun j _ => ?_
  rw [d.getLsbD_extract, BitVec.getLsbD_and, BitVec.getLsbD_ushiftRight, Nat.add_comm _ j]
  cases hMask : d.mask.getLsbD (j + d.pos.toNat) with
  | false => simp
  | true =>
    rw [d.getLsbD_insert c v (BitVec.lt_of_getLsbD (x := d.mask) hMask), if_pos hMask]
    simp

/-- Insertion keeps every bit outside the mask (R126). -/
theorem Descriptor.insert_and_not_mask (d : Descriptor) (c v : Word) :
    d.insert c v &&& ~~~d.mask = c &&& ~~~d.mask := by
  refine BitVec.eq_of_getLsbD_eq fun j hj => ?_
  simp only [BitVec.getLsbD_and, BitVec.getLsbD_not, hj, d.getLsbD_insert c v hj]
  cases d.mask.getLsbD j <;> simp

end Sys2Proof

namespace Sys2Proof.Machine

/-! #### A slot stored (R31) -/

/-- The state after an operation that writes slot `i` and no other state of the block (R31). -/
def State.store (s : State) (i : RegIndex) (v : Word) (o : Outputs) : State :=
  { s with toBlock := s.toBlock.setSlot i v, outs := o }

/-- What `exec` answers where the operation stores one word. -/
theorem exec_eq_store {x : Instr} {s : State} {i : RegIndex} {v : Word} {o : Outputs}
    (h : s.toBlock.operate x = (s.toBlock.setSlot i v).drive o) :
    exec x s = .next (s.store i v o) := by
  rw [exec_eq_operate, h]
  rfl

/-- What `exec` answers where the operation leaves the block as it is. -/
theorem exec_eq_drive {x : Instr} {s : State} {o : Outputs}
    (h : s.toBlock.operate x = s.toBlock.drive o) : exec x s = .next { s with outs := o } := by
  rw [exec_eq_operate, h]
  rfl

@[simp] theorem State.store_outs (s : State) (i : RegIndex) (v : Word) (o : Outputs) :
    (s.store i v o).outs = o := rfl

theorem State.store_sameBesideCache (s : State) (i : RegIndex) (v : Word) (o : Outputs) :
    s.SameBesideCache (s.store i v o) := ⟨rfl, rfl, rfl⟩

@[simp] theorem State.store_slot_same (s : State) (i : RegIndex) (v : Word) (o : Outputs) :
    (s.store i v o).slot i = v :=
  Block.slot_setSlot_same s.toBlock i v

theorem State.store_slot_of_ne (s : State) {i j : RegIndex} (v : Word) (o : Outputs) (h : j ≠ i) :
    (s.store i v o).slot j = s.slot j :=
  Block.slot_setSlot_of_ne s.toBlock v h.symm

/-! #### What each operation answers -/

theorem operate_cacheWr_toPort (b : Block) (i : RegIndex) (w : Word) :
    b.operate (.cacheWr i.toPort w) = (b.setSlot i w).drive {} := by
  rw [operate_cacheWr, withIndex_toPort]
  rfl

theorem operate_cacheRd_toPort (b : Block) (i : RegIndex) :
    b.operate (.cacheRd i.toPort) = b.drive { out := b.slot i } := by
  rw [operate_cacheRd, withIndex_toPort]

section Field

variable {d : Descriptor} {i : RegIndex} (hReg : d.reg = i.toPort) (b : Block)

include hReg

theorem operate_fldChk_at (wr : Bool) :
    b.operate (.fldChk d wr) = b.drive (fieldCheckOutputs d wr i) := by
  rw [operate_fldChk, hReg, withIndex_toPort]

theorem operate_fldGet_of_readable (h : d.readable = true) (raw : Word) :
    b.operate (.fldGet d raw) = (b.setSlot i raw).drive { out := d.extract raw } := by
  rw [operate_fldGet, hReg, withIndex_toPort, if_pos h]

theorem operate_fldGet_of_not_readable (h : d.readable = false) (raw : Word) :
    b.operate (.fldGet d raw) = b.drive { st := .accessDenied } := by
  simp [operate_fldGet, hReg, h, Block.endWith]

theorem operate_fldSet_of_writable (h : d.writable = true) (v : Word) :
    b.operate (.fldSet d v) = (b.setSlot i (d.insert (b.slot i) v)).drive
      { out := d.insert (b.slot i) v, inCrcBlock := inBlock i } := by
  rw [operate_fldSet, hReg, withIndex_toPort, if_pos h]

theorem operate_fldSet_of_not_writable (h : d.writable = false) (v : Word) :
    b.operate (.fldSet d v) = b.drive { st := .accessDenied } := by
  simp [operate_fldSet, hReg, h, Block.endWith]

end Field

/-! #### The statements -/

/-- Settles O28: an index of the map selects the one slot the operation speaks of; above it the index test
ends both operations. -/
theorem cacheWritesOneSlotAndReadsItBack : Obligations.CacheWritesOneSlotAndReadsItBack := by
  refine ⟨fun p => ⟨fun h => by simp [decode, decodePorts, h],
    fun h => by simp [decode, decodePorts, h]⟩, fun k ri w s hk => ?_,
    fun ri w s h => ⟨exec_of_illegal_index rfl h s, exec_of_illegal_index rfl h s⟩⟩
  obtain rfl := RegIndex.eq_toPort_of_toNat_eq hk
  exact ⟨⟨_, exec_eq_store (operate_cacheWr_toPort s.toBlock k w), s.store_sameBesideCache k w _, rfl,
      s.store_slot_same k w _, fun _ hj => s.store_slot_of_ne w _ hj⟩,
    exec_eq_drive (operate_cacheRd_toPort s.toBlock k)⟩

/-- The right that the intent needs, on an unreserved descriptor (R123). -/
theorem allowed_iff (d : Descriptor) (wr : Bool) :
    allowed d wr = true ↔ d.acc.res = false ∧ (if wr then d.acc.w else d.acc.r) = true := by
  cases wr
  · exact d.readable_iff
  · exact d.writable_iff

/-- Settles O29: the index test, then the access test; no branch touches the block. -/
theorem fieldCheckEvaluatesTheRights : Obligations.FieldCheckEvaluatesTheRights := by
  refine ⟨fun p h => ⟨Descriptor.ofBits p.d, by simp [decode, decodePorts, h]⟩,
    fun d wr s => ⟨fun h => exec_of_illegal_index rfl h s, fun hLe hDenied => ?_,
      fun hLe hRes hRight => ?_⟩⟩
  · obtain ⟨i, hi⟩ := RegIndex.exists_toPort_of_le hLe
    have hNot : ¬ allowed d wr = true := by
      rw [allowed_iff]
      rintro ⟨hRes, hRight⟩
      simp [hRes, hRight] at hDenied
    rw [exec_eq_drive (operate_fldChk_at hi s.toBlock wr), fieldCheckOutputs, if_neg hNot]
  · obtain ⟨i, hi⟩ := RegIndex.exists_toPort_of_le hLe
    have hAllowed := (allowed_iff d wr).mpr ⟨hRes, hRight⟩
    rw [exec_eq_drive (operate_fldChk_at hi s.toBlock wr), fieldCheckOutputs, if_pos hAllowed,
      inBlock_eq_decide, hi, RegIndex.toPort_toNat]
    cases wr <;> rfl

/-- Settles O30: the raw word is stored whole, and each bit of the field comes from `pos` places up. -/
theorem fieldGetCachesAndExtracts : Obligations.FieldGetCachesAndExtracts := by
  refine ⟨fun p h => ⟨Descriptor.ofBits p.d, by simp [decode, decodePorts, h]⟩,
    fun d raw s => ⟨fun h => exec_of_illegal_index rfl h s, fun hLe hDenied => ?_,
      fun k hk hRes hRight => ?_⟩⟩
  · obtain ⟨i, hi⟩ := RegIndex.exists_toPort_of_le hLe
    exact exec_eq_drive
      (operate_fldGet_of_not_readable hi s.toBlock (d.readable_eq_false_iff.mpr hDenied) raw)
  · have hReg := RegIndex.eq_toPort_of_toNat_eq hk
    have hReadable := d.readable_iff.mpr ⟨hRes, hRight⟩
    exact ⟨_, d.extract raw, exec_eq_store (operate_fldGet_of_readable hReg s.toBlock hReadable raw),
      s.store_sameBesideCache k raw _, rfl, s.store_slot_same k raw _,
      fun _ hj => s.store_slot_of_ne raw _ hj, d.getLsbD_extract raw⟩

/-- Settles O31: inside the mask the inserted word has the shifted value's bits, outside it the slot's. -/
theorem fieldSetInsertsIntoTheCachedWord : Obligations.FieldSetInsertsIntoTheCachedWord := by
  refine ⟨fun p h => ⟨Descriptor.ofBits p.d, by simp [decode, decodePorts, h]⟩,
    fun d v s => ⟨fun h => exec_of_illegal_index rfl h s, fun hLe hDenied => ?_,
      fun k hk hRes hRight => ?_⟩⟩
  · obtain ⟨i, hi⟩ := RegIndex.exists_toPort_of_le hLe
    exact exec_eq_drive
      (operate_fldSet_of_not_writable hi s.toBlock (d.writable_eq_false_iff.mpr hDenied) v)
  · have hReg := RegIndex.eq_toPort_of_toNat_eq hk
    have hWritable := d.writable_iff.mpr ⟨hRes, hRight⟩
    refine ⟨_, d.insert (s.slot k) v,
      exec_eq_store (operate_fldSet_of_writable hReg s.toBlock hWritable v),
      s.store_sameBesideCache k _ _, ?_, s.store_slot_same k _ _,
      fun _ hj => s.store_slot_of_ne _ _ hj, fun j hj => d.getLsbD_insert _ v hj⟩
    rw [State.store_outs, inBlock_eq_decide]

/-- Settles O32: extraction undoes insertion within the field, and insertion keeps what lies outside. -/
theorem bitFieldRoundTrip : Obligations.BitFieldRoundTrip := by
  rintro d v s s' ⟨hLe, -, -⟩ hRes hR hW
  obtain ⟨i, hi⟩ := RegIndex.exists_toPort_of_le hLe
  have hSet := exec_eq_store
    (operate_fldSet_of_writable hi s.toBlock (d.writable_iff.mpr ⟨hRes, hW⟩) v)
  have hGet := exec_eq_store
    (operate_fldGet_of_readable hi s'.toBlock (d.readable_iff.mpr ⟨hRes, hR⟩) (d.insert (s.slot i) v))
  refine ⟨_, _, hSet, rfl, hGet, rfl, d.extract_insert (s.slot i) v, fun k hk => ?_⟩
  rw [hi, RegIndex.toPort_toNat] at hk
  obtain rfl : i = k := Fin.ext hk
  exact d.insert_and_not_mask (s.slot i) v

/-! #### The CRC of the parameter block (R127, R128) -/

/-- The word `BLOCK_CRC` puts in slot 15: its high byte with the CRC of the block (R127). -/
def Block.crcWord (b : Block) : Word := wordOfBytes (hi8 (b.slot 15)) (crc8 b.blockBytes)

/-- The block `BLOCK_CRC` leaves: the CRC word in slot 15, the accumulator behind it in `CRC_ACC`
(R127). -/
def Block.sealed (b : Block) : Block :=
  (b.setCrcAcc (crcAbsorb crcSeed b.blockBytes)).setSlot 15 b.crcWord

theorem operate_blockCrc_sealed (b : Block) :
    b.operate .blockCrc = b.sealed.drive { out := b.crcWord } := rfl

theorem exec_blockCrc (s : State) :
    exec .blockCrc s =
      .next { s with toBlock := s.toBlock.sealed, outs := { out := s.crcWord } } := by
  rw [exec_eq_operate, operate_blockCrc_sealed]
  rfl

@[simp] theorem Block.sealed_slot_15 (b : Block) : b.sealed.slot 15 = b.crcWord :=
  Block.slot_setSlot_same _ 15 _

theorem Block.sealed_slot_of_ne (b : Block) {k : RegIndex} (h : k ≠ 15) :
    b.sealed.slot k = b.slot k :=
  Block.slot_setSlot_of_ne _ _ h.symm

/-- The bytes under the block CRC are those of slots 8 to 14 and the high byte of slot 15: the low byte
of slot 15 is none of them (R127(b)). -/
theorem blockBytes_congr_of_slots {b c : Block}
    (hSlots : ∀ k : RegIndex, 8 ≤ k.val → k.val ≤ 14 → b.slot k = c.slot k)
    (hHigh : hi8 (b.slot 15) = hi8 (c.slot 15)) : b.blockBytes = c.blockBytes := by
  have hRest : ∀ k ∈ ([8, 9, 10, 11, 12, 13, 14] : List RegIndex), b.slot k = c.slot k := by
    intro k hk
    exact hSlots k (by revert k; decide) (by revert k; decide)
  rw [Block.blockBytes, Block.blockBytes, hHigh]
  congr 1
  exact List.flatMap_congr fun k hk => by rw [hRest k hk]

/-- Storing the CRC word changes no byte under the CRC. -/
@[simp] theorem Block.sealed_blockBytes (b : Block) : b.sealed.blockBytes = b.blockBytes :=
  blockBytes_congr_of_slots
    (fun _ _ hk => b.sealed_slot_of_ne (by rintro rfl; exact absurd hk (by decide)))
    (by rw [Block.sealed_slot_15, Block.crcWord, hi8_wordOfBytes])

/-- `BLOCK_CRC` establishes the invariant of the block (R128). -/
theorem Block.sealed_blockCrcHolds (b : Block) : b.sealed.BlockCrcHolds := by
  rw [Block.BlockCrcHolds, Block.sealed_blockBytes, Block.sealed_slot_15, Block.crcWord,
    lo8_wordOfBytes]

/-- The CRC word depends on no bit of the low byte it replaces (R127(b)). -/
@[simp] theorem Block.sealed_crcWord (b : Block) : b.sealed.crcWord = b.crcWord := by
  rw [Block.crcWord, Block.sealed_blockBytes, Block.sealed_slot_15, Block.crcWord, hi8_wordOfBytes]

/-- `BLOCK_CRC` is idempotent (R127(a)). -/
@[simp] theorem Block.sealed_sealed (b : Block) : b.sealed.sealed = b.sealed := by
  rw [Block.sealed, Block.sealed_crcWord, Block.sealed_blockBytes]
  simp [Block.sealed, Block.setSlot, Block.setCrcAcc]

/-- Settles O33: the CRC is one of the 15 bytes written out, and its complement is the accumulator. -/
theorem blockCrcWritesTheLowByteOfSlot15 : Obligations.BlockCrcWritesTheLowByteOfSlot15 := by
  refine ⟨fun p h => by simp [decode, decodePorts, h], fun s => ⟨_, exec_blockCrc s, ?_⟩⟩
  intro crc
  have hCrc : (crc8 s.blockBytes).toNat = crc := rfl
  have hWord : (s.sealed.slot 15).toNat = (s.slot 15).toNat / 256 * 256 + crc := by
    rw [Block.sealed_slot_15, Block.crcWord, wordOfBytes_toNat, hi8_toNat, hCrc]
  have hAcc : (crcAbsorb crcSeed s.blockBytes).toNat = 255 - crc := by
    have hByte := (crcAbsorb crcSeed s.blockBytes).isLt
    rw [crc8_toNat] at hCrc
    omega
  exact ⟨hWord, hAcc, by rw [Block.sealed_slot_15], fun _ hj => Block.sealed_slot_of_ne _ hj, rfl, rfl⟩

/-- Settles O34: the word stored has the CRC of bytes that storing it leaves as they are. -/
theorem blockCrcEstablishesTheBlockInvariant : Obligations.BlockCrcEstablishesTheBlockInvariant := by
  refine ⟨fun s => ⟨_, exec_blockCrc s, Block.sealed_blockCrcHolds _, ?_⟩,
    fun s s' hSlots hHigh => ⟨_, _, exec_blockCrc s, exec_blockCrc s', ?_⟩⟩
  · rw [exec_blockCrc, Block.sealed_sealed, Block.sealed_crcWord]
  · have hBytes : s.blockBytes = s'.blockBytes := blockBytes_congr_of_slots
      (fun k _ hk => hSlots k (by rintro rfl; exact absurd hk (by decide))) hHigh
    have hWord : s.crcWord = s'.crcWord := by rw [Block.crcWord, Block.crcWord, hBytes, hHigh]
    exact ⟨congrArg (fun w => ({ out := w } : Outputs)) hWord, congrArg (crcAbsorb crcSeed) hBytes⟩

/-- Two accumulators that absorb the same bytes differ at the end by what their difference becomes over
zero bytes (R112). -/
theorem crcAbsorb_xor_same (a a' : Byte) (bs : List Byte) :
    crcAbsorb a bs ^^^ crcAbsorb a' bs = crcAbsorb (a ^^^ a') (List.replicate bs.length 0) := by
  have hZeros : xorBytes bs bs = List.replicate bs.length 0 := by
    simp [xorBytes, List.zipWith_self]
  rw [← crcAbsorb_xor a a' rfl, hZeros]

/-- Absorbing bytes and then their CRC reaches an accumulator in which the bytes do not occur. -/
theorem crcAbsorb_append_crc8 (acc : Byte) (bs : List Byte) :
    crcAbsorb acc (bs ++ [crc8 bs]) =
      crcStep (crcAbsorb (acc ^^^ crcSeed) (List.replicate bs.length 0)) (BitVec.allOnes 8) := by
  rw [crcAbsorb_append, crcAbsorb_cons, crcAbsorb_nil, crcStep_eq_iff, ← crcAbsorb_xor_same, crc8,
    ← BitVec.xor_allOnes, BitVec.xor_assoc]

/-- Settles O35: the accumulator depends on the number of the bytes alone, which is 15 for every block. -/
theorem goodBlockLeavesAFixedResidue : Obligations.GoodBlockLeavesAFixedResidue := by
  intro s s' acc h h'
  rw [h, h', crcAbsorb_append_crc8, crcAbsorb_append_crc8]
  rfl

end Sys2Proof.Machine

/-! ### What a host sequence leaves, whatever code it returns -/

namespace Sys2Proof.Machine

/-- Wherever the sequence returns, with any code, the Facade it leaves has the property. -/
def HostOutcome.Leaves {α : Type} (r : HostOutcome α) (P : Facade → Prop) : Prop :=
  ∀ st v g, r = .done st v g → P g

/-- The property is kept by all that a host sequence does beside writing the cache: a Transport call, a
change of the lifecycle, an operation that writes no slot. -/
structure Facade.Steady (P : Facade → Prop) : Prop where
  answered {f : Facade} {a : Answer} {rest : List Answer} (call : WireCall) (h : P f)
    (ha : f.answers = a :: rest) : P { f with answers := rest, wire := f.wire ++ [call] }
  moved {f : Facade} (l : Lifecycle) (h : P f) : P { f with life := l }
  operated {f : Facade} {i : Instr} (hi : ∀ k, i.writesSlot k = false) (h : P f) : P (f.invoke i)

namespace HostOutcome.Leaves

variable {α β : Type} {P : Facade → Prop} {f : Facade}

theorem done {st : ResultCode} {v : α} (h : P f) : (HostOutcome.done st v f).Leaves P := by
  intro st' v' g e
  cases e
  exact h

theorem blocked : (HostOutcome.blocked f : HostOutcome α).Leaves P :=
  fun _ _ _ e => nomatch e

theorem andThen {r : HostOutcome α} {zero : β} {k : α → Facade → HostOutcome β} (hr : r.Leaves P)
    (hk : ∀ v g, P g → (k v g).Leaves P) : (r.andThen zero k).Leaves P := by
  intro st v g e
  rcases andThen_eq_done e with ⟨a, f₁, hFirst, hRest⟩ | ⟨a, -, hFirst, -⟩
  · exact hk a f₁ (hr _ _ _ hFirst) _ _ _ hRest
  · exact hr _ _ _ hFirst

end HostOutcome.Leaves

/-- Where the sequence returns another code than `OK`, the value is the zero given and the Facade it leaves
has the property. -/
def HostOutcome.FailsWith {α : Type} (r : HostOutcome α) (zero : α) (P : Facade → Prop) : Prop :=
  ∀ st v g, r = .done st v g → st ≠ .ok → P g ∧ v = zero

namespace HostOutcome.FailsWith

variable {α β : Type} {P : Facade → Prop} {f : Facade}

theorem of_ok {v zero : α} : (HostOutcome.done .ok v f).FailsWith zero P := by
  intro st v' g e hSt
  cases e
  exact absurd rfl hSt

theorem andThen {r : HostOutcome α} {zero : β} {k : α → Facade → HostOutcome β} (hr : r.Leaves P)
    (hk : ∀ v g, P g → (k v g).FailsWith zero P) : (r.andThen zero k).FailsWith zero P := by
  intro st v g e hSt
  rcases andThen_eq_done e with ⟨a, f₁, hFirst, hRest⟩ | ⟨a, -, hFirst, hZero⟩
  · exact hk a f₁ (hr _ _ _ hFirst) _ _ _ hRest hSt
  · exact ⟨hr _ _ _ hFirst, hZero⟩

end HostOutcome.FailsWith

namespace Facade.Steady

variable {P : Facade → Prop} (hP : Facade.Steady P) {f : Facade}

include hP

theorem transport (h : P f) (log : Option (List Word) → WireCall) :
    (f.transport log).Leaves P := by
  rcases f.transport_cases log with ⟨-, e⟩ | ⟨_, ha, e⟩ | ⟨_, _, ha, e⟩
  · exact e ▸ .blocked
  · exact e ▸ .done (hP.answered _ h ha)
  · exact e ▸ .done (hP.answered _ h ha)

theorem trigger (h : P f) : f.trigger.Leaves P := hP.transport h _

theorem exchange (h : P f) (tx : List Word) (n : Nat) : (f.exchange tx n).Leaves P :=
  (hP.transport h _).andThen fun _ _ hg => .done hg

theorem check {α : Type} (h : P f) (w cmd : Word) (pl : List Word)
    {k : ResultCode → Facade → HostOutcome α} (hk : ∀ st g, P g → (k st g).Leaves P) :
    (f.check w cmd pl k).Leaves P := by
  refine hk _ _ ?_
  have hChecked : P (f.invoke (.check w cmd pl)) := hP.operated (fun _ => rfl) h
  split
  · exact hP.moved _ hChecked
  · exact hChecked

theorem payReset (h : P f) (p : HostParams) (due : Bool) : (payReset p due f).Leaves P := by
  unfold Machine.payReset
  split
  · exact (hP.trigger h).andThen fun _ _ h₁ =>
      (hP.exchange h₁ _ _).andThen fun _ _ h₂ => .done (hP.moved _ h₂)
  · exact .done h

theorem safeRead (h : P f) (ri : BitVec 5) (upd : Bool) : (safeRead ri upd f).Leaves P := by
  have hBuilt : P (f.invoke (.buildRd ri upd true 1)) := hP.operated (fun _ => rfl) h
  unfold Machine.safeRead
  rw [Facade.call_eq]
  split
  · exact .done hBuilt
  · refine (hP.exchange hBuilt _ _).andThen fun _ _ h₁ => hP.check h₁ _ _ _ fun _ _ h₂ => ?_
    split <;> exact .done h₂

theorem safeWrite (h : P f) (p : HostParams) (ri : BitVec 5) (new : Word) :
    (safeWrite p ri new f).Leaves P := by
  have hBuilt : P (f.invoke (.buildWr ri true)) := hP.operated (fun _ => rfl) h
  unfold Machine.safeWrite
  rw [Facade.call_eq]
  split
  · exact .done hBuilt
  · exact (hP.payReset hBuilt p true).andThen fun _ _ h₁ =>
      (hP.exchange h₁ _ _).andThen fun _ _ h₂ => hP.check h₂ _ _ _ fun _ _ h₃ => .done h₃

end Facade.Steady

/-- Nothing beside a cache write changes the cache. -/
theorem Facade.steady_regcache (c : Vector Word 22) : Facade.Steady fun f => f.block.regcache = c where
  answered _ h _ := h
  moved _ h := h
  operated {f i} hi h :=
    (Block.regcache_ext fun k => (operate_writtenBy i f.block).slot_eq (hi k)).trans h

/-- The Transport Port's answers are only used up. -/
theorem Facade.steady_answers (n : Nat) : Facade.Steady fun f => f.answers.length ≤ n where
  answered _ h ha := by
    rw [ha] at h
    exact Nat.le_of_succ_le h
  moved _ h := h
  operated _ h := h

/-! ### Operations invoked by a host sequence -/

/-- The host goes on with what the operation answers on the block it owns (R8). -/
theorem Facade.call_of_operate {α : Type} {f : Facade} {i : Instr} {b : Block} {o : Outputs}
    (h : f.block.operate i = b.drive o) (k : Outputs → Facade → α) :
    f.call i k = k o { f with block := b } := by
  rw [Facade.call_eq, Facade.invoke, h]
  rfl

/-- An operation that leaves the block as it is leaves the Facade as it is. -/
theorem Facade.call_of_drive {α : Type} {f : Facade} {i : Instr} {o : Outputs}
    (h : f.block.operate i = f.block.drive o) (k : Outputs → Facade → α) : f.call i k = k o f :=
  Facade.call_of_operate h k

theorem Facade.whenUsable_of_usable {α : Type} {f : Facade} (h : f.usable = true)
    (k : Facade → HostOutcome α) : f.whenUsable k = k f := by
  simp [Facade.whenUsable, h]

theorem usable_of_whenUsable {α : Type} {f g : Facade} {k : Facade → HostOutcome α} {st : ResultCode}
    {v : α} (h : f.whenUsable k = .done st v g) : f.usable = true := by
  unfold Facade.whenUsable at h
  split at h
  · assumption
  · cases h

/-! ### Field accesses (spec/42_register_bitfield.md R130, R131) -/

section FieldAccess

variable (p : HostParams) {d : Descriptor} {i : RegIndex} (hReg : d.reg = i.toPort) {f : Facade}

theorem getBitField_of_illegal (hUsable : f.usable = true) (h : 21 < d.reg.toNat) :
    getBitField p d f = .done .illegalOp 0 f := by
  rw [getBitField, Facade.whenUsable_of_usable hUsable,
    Facade.call_of_drive (operate_of_illegal_index rfl h f.block)]
  rfl

include hReg

theorem getBitField_of_not_readable (hUsable : f.usable = true) (h : d.readable = false) :
    getBitField p d f = .done .accessDenied 0 f := by
  have hChecked : f.block.operate (.fldChk d false) = f.block.drive { st := .accessDenied } := by
    rw [operate_fldChk_at hReg, fieldCheckOutputs]
    simp [allowed, h]
  rw [getBitField, Facade.whenUsable_of_usable hUsable, Facade.call_of_drive hChecked]
  rfl

/-- The steps of `get_bit_field` after its access test (R130). -/
theorem getBitField_of_readable (hUsable : f.usable = true) (h : d.readable = true) :
    getBitField p d f =
      (payReset p true f).andThen 0 fun _ f =>
      (if d.acc.u then f.trigger else .done .ok [] f).andThen 0 fun _ f =>
      (safeRead i.toPort d.acc.u f).andThen 0 fun x f =>
      .done .ok (d.extract x) { f with block := f.block.setSlot i x } := by
  have hChecked : f.block.operate (.fldChk d false) =
      f.block.drive { needTrigger := d.acc.u, inCrcBlock := inBlock i } := by
    rw [operate_fldChk_at hReg, fieldCheckOutputs]
    simp [allowed, h, needTrigger, Descriptor.needsUpdate]
  rw [getBitField, Facade.whenUsable_of_usable hUsable, Facade.call_of_drive hChecked]
  simp only [Facade.call_of_operate (operate_fldGet_of_readable hReg _ h _), hReg]
  rfl

theorem setBitField_of_not_writable (v : Word) (hUsable : f.usable = true) (h : d.writable = false) :
    setBitField p d v f = .done .accessDenied () f := by
  rw [setBitField, Facade.whenUsable_of_usable hUsable,
    Facade.call_of_drive (operate_fldSet_of_not_writable hReg f.block h v)]
  rfl

/-- The steps of `set_bit_field` after its access test: the inserted word is cached, then written
(R131). -/
theorem setBitField_of_writable (v : Word) (hUsable : f.usable = true) (h : d.writable = true) :
    setBitField p d v f =
      writeAndRegenerate p i.toPort (d.insert (f.block.slot i) v) (inBlock i)
        { f with block := f.block.setSlot i (d.insert (f.block.slot i) v) } := by
  rw [setBitField, Facade.whenUsable_of_usable hUsable,
    Facade.call_of_operate (operate_fldSet_of_writable hReg f.block h v), hReg]
  rfl

end FieldAccess

/-- Settles O48: the access test of a denied field ends both sequences on the Facade they began with. -/
theorem deniedFieldAccessMakesNoExchange : Obligations.DeniedFieldAccessMakesNoExchange := by
  intro p d v f hUsable hLe
  obtain ⟨i, hi⟩ := RegIndex.exists_toPort_of_le hLe
  exact ⟨getBitField_of_not_readable p hi hUsable, setBitField_of_not_writable p hi v hUsable⟩

/-- The host's `CHECK` of the right CRC under good status bits goes on with `OK`, the safety word kept
(R108). -/
theorem Facade.check_of_good {α : Type} (f : Facade) {w cmd : Word} {pl : List Word}
    (hStatus : w &&& 0x7000 = 0x7000) (hCrc : lo8 w = crc8 (txBytes cmd pl))
    (k : ResultCode → Facade → α) :
    f.check w cmd pl k = k .ok { f with
      block := (f.block.setSafetyLast w).setCrcAcc (crcAbsorb crcSeed (txBytes cmd pl)) } := by
  rw [Facade.check, Facade.call_of_operate (operate_check_of_crc (statusBitsError_eq_none hStatus) ..),
    (crcVerdict_eq_ok_iff w cmd pl).mpr hCrc]
  rfl

theorem Facade.exchange_of_success {f : Facade} {rx : List Word} {rest : List Answer}
    (h : f.answers = .success rx :: rest) (tx : List Word) :
    f.exchange tx rx.length = .done .ok rx
      { f with answers := rest, wire := f.wire ++ [.exchange tx (some rx)] } := by
  have hFrame : receiveFrame rx.length rx = rx :=
    List.ext_getElem (by simp) fun k _ hk => by simp [receiveFrame, hk]
  simp [Facade.exchange, Facade.transport, h, hFrame]

theorem Facade.trigger_of_success {f : Facade} {rx : List Word} {rest : List Answer}
    (h : f.answers = .success rx :: rest) :
    f.trigger = .done .ok rx { f with answers := rest, wire := f.wire ++ [.trigger true] } := by
  simp [Facade.trigger, Facade.transport, h]

/-- A read answered by a data word and a safety word that `CHECK` accepts (R130 steps 3 to 5). -/
theorem safeRead_of_good {i : RegIndex} {upd : Bool} {f : Facade} {x w : Word} {rest : List Answer}
    (hAnswer : f.answers = .success [x, w] :: rest) (hStatus : w &&& 0x7000 = 0x7000)
    (hCrc : lo8 w = crc8 (txBytes (readCommand i upd true 1) [x])) :
    ∃ g, safeRead i.toPort upd f = .done .ok x g ∧ g.block.regcache = f.block.regcache ∧
      g.block.safetyLast = some w ∧ g.life = f.life ∧ g.answers = rest ∧
      g.wire = f.wire ++ [singleRead i upd x w] := by
  refine ⟨{ f with
    block := (f.block.setSafetyLast w).setCrcAcc
      (crcAbsorb crcSeed (txBytes (readCommand i upd true 1) [x]))
    answers := rest
    wire := f.wire ++ [singleRead i upd x w] }, ?_, rfl, rfl, rfl, rfl, rfl⟩
  rw [safeRead, Facade.call_of_drive (operate_buildRd_one i upd f.block), if_neg (by simp)]
  show (f.exchange _ [x, w].length).andThen _ _ = _
  rw [Facade.exchange_of_success hAnswer, HostOutcome.andThen_ok]
  show Facade.check _ w _ [x] _ = _
  rw [Facade.check_of_good _ hStatus hCrc]
  rfl

theorem readCommand_one_toNat (i : RegIndex) (upd : Bool) :
    (readCommand i upd true 1).toNat =
      0x8001 + (if upd then 0x0400 else 0) + 16 * sensorAddress i.toPort := by
  rw [readCommand_one, commandWord_toNat, addressField_toNat, toNat_mul_eq_ite upd]
  simp only [Bool.toNat_true, BitVec.toNat_ofNat]
  omega

/-- The trigger of a field that requires an update, and of no other (R130 step 2). -/
theorem updateTrigger_of_success {f : Facade} {upd : Bool} {ack : List Word} {rest : List Answer}
    (h : f.answers = (if upd then [.success ack] else []) ++ rest) :
    ∃ a f₁, (if upd then f.trigger else .done .ok [] f) = .done .ok a f₁ ∧ f₁.block = f.block ∧
      f₁.life = f.life ∧ f₁.answers = rest ∧
      f₁.wire = f.wire ++ (if upd then [.trigger true] else []) := by
  cases upd with
  | true => exact ⟨_, _, Facade.trigger_of_success h, rfl, rfl, rfl, rfl⟩
  | false => exact ⟨_, f, rfl, rfl, rfl, h, (List.append_nil _).symm⟩

/-- Settles O49: in `Ready` no reset is due, the descriptor decides on the trigger, the read returns the
word that the last step caches. -/
theorem fieldReadReturnsTheField : Obligations.FieldReadReturnsTheField := by
  intro p d f k x w cmd ack rest hReady hk hReadable hAnswers hCmd hStatus hCrc
  have hUsable : f.usable = true := by simp [Facade.usable, hReady]
  have hReg := RegIndex.eq_toPort_of_toNat_eq hk
  rw [hReg] at hCmd
  obtain rfl : cmd = readCommand k d.acc.u true 1 :=
    BitVec.eq_of_toNat_eq (hCmd.trans (readCommand_one_toNat k d.acc.u).symm)
  obtain ⟨_, f₁, hTrigger, hBlock, hLife, hAnswer, hWire⟩ := updateTrigger_of_success hAnswers
  obtain ⟨f₂, hRead, hCache, hSafety, hLife', hRest, hWire'⟩ := safeRead_of_good hAnswer hStatus hCrc
  have hSlot (j : RegIndex) : f₂.block.slot j = f.block.slot j :=
    (Block.slot_congr hCache j).trans (congrArg (·.slot j) hBlock)
  refine ⟨{ f₂ with block := f₂.block.setSlot k x }, ?_, Block.slot_setSlot_same _ k x,
    fun j hj => (Block.slot_setSlot_of_ne _ x hj.symm).trans (hSlot j), hSafety,
    hLife'.trans (hLife.trans hReady), hRest, hWire'.trans (hWire ▸ rfl)⟩
  rw [getBitField_of_readable p hReg hUsable hReadable, payReset_of_ready p true hReady,
    HostOutcome.andThen_ok, hTrigger, HostOutcome.andThen_ok, hRead, HostOutcome.andThen_ok]

/-- The steps of `get_bit_field` after its access test write the cache only where they return `OK`. -/
theorem getBitField_failsWith (p : HostParams) {d : Descriptor} {i : RegIndex}
    (hReg : d.reg = i.toPort) {f : Facade} (hUsable : f.usable = true) (h : d.readable = true) :
    (getBitField p d f).FailsWith 0 fun g => g.block.regcache = f.block.regcache := by
  have hSteady := Facade.steady_regcache f.block.regcache
  rw [getBitField_of_readable p hReg hUsable h]
  refine .andThen (hSteady.payReset rfl p true) fun _ f₁ h₁ => .andThen ?_ fun _ f₂ h₂ =>
    .andThen (hSteady.safeRead h₂ _ _) fun _ _ _ => .of_ok
  split
  · exact hSteady.trigger h₁
  · exact .done h₁

/-- Settles O50: the index and the access test fail on the Facade they found; past them only the last step
writes the cache, and it returns `OK`. -/
theorem failedFieldReadCachesNothing : Obligations.FailedFieldReadCachesNothing := by
  intro p d f g st val h hSt
  have hUsable := usable_of_whenUsable h
  rcases Nat.lt_or_ge 21 d.reg.toNat with hIllegal | hLe
  · cases (getBitField_of_illegal p hUsable hIllegal).symm.trans h
    exact ⟨rfl, rfl⟩
  · obtain ⟨i, hi⟩ := RegIndex.exists_toPort_of_le hLe
    cases hReadable : d.readable with
    | false =>
      cases (getBitField_of_not_readable p hi hUsable hReadable).symm.trans h
      exact ⟨rfl, rfl⟩
    | true => exact getBitField_failsWith p hi hUsable hReadable _ _ _ h hSt

/-- Outside the CRC-protected block nothing follows the write (R131). -/
theorem writeAndRegenerate_outside (p : HostParams) (ri : BitVec 5) (new : Word) (f : Facade) :
    writeAndRegenerate p ri new false f = safeWrite p ri new f := by
  unfold writeAndRegenerate
  split <;> simp [*]

/-- Settles O54: the write after the insertion leaves the cache as the insertion left it. -/
theorem failedWriteKeepsTheInsertedField : Obligations.FailedWriteKeepsTheInsertedField := by
  intro p d v f g st k hUsable hk hOutside hWritable h
  have hReg := RegIndex.eq_toPort_of_toNat_eq hk
  rw [setBitField_of_writable p hReg v hUsable hWritable, inBlock_eq_decide,
    decide_eq_false hOutside, writeAndRegenerate_outside] at h
  have hCache := (Facade.steady_regcache _).safeWrite rfl p _ _ _ _ _ h
  have hSlot (j : RegIndex) := Block.slot_congr hCache j
  exact ⟨(hSlot k).trans (Block.slot_setSlot_same _ _ _),
    fun j hj => (hSlot j).trans (Block.slot_setSlot_of_ne _ _ hj.symm)⟩

end Sys2Proof.Machine

/-! ### Block reads (spec/42_register_bitfield.md R133, R135) -/

namespace Sys2Proof.Machine

/-- A Transport call that succeeded used up an answer (R41). -/
theorem Facade.transport_eq_ok_answers {f g : Facade} {log : Option (List Word) → WireCall}
    {rx : List Word} (h : f.transport log = .done .ok rx g) : g.answers.length < f.answers.length := by
  rcases f.transport_cases log with ⟨-, e⟩ | ⟨_, -, e⟩ | ⟨_, _, hAnswers, e⟩
  all_goals rw [e] at h; cases h
  simp [hAnswers]

/-- An exchange that succeeded leaves the block and uses up an answer (R41). -/
theorem Facade.exchange_eq_ok_frame {f g : Facade} {tx : List Word} {n : Nat} {rx : List Word}
    (h : f.exchange tx n = .done .ok rx g) :
    g.block = f.block ∧ g.answers.length < f.answers.length := by
  obtain ⟨ws, f₁, hCall, hFrame⟩ := HostOutcome.andThen_eq_ok h
  cases hFrame
  exact ⟨(Facade.transport_eq_ok hCall).2.1, Facade.transport_eq_ok_answers hCall⟩

/-- A block read that returned `OK` paid the reset duty where it was due and made one exchange; it returns
the first `nd` words of the frame. The check of the frame leaves cache, answers and log. -/
theorem blockRead_eq_ok {p : HostParams} {cmd : Word} {f g : Facade} {data : List Word}
    (h : blockRead p cmd f = .done .ok data g) :
    ∃ f₁ f₂ rx, payReset p (commandFields cmd).safe f = .done .ok () f₁ ∧
      f₁.exchange [cmd] (commandFields cmd).rxn.toNat = .done .ok rx f₂ ∧
      data = rx.take (commandFields cmd).nd.toNat ∧ g.block.regcache = f₂.block.regcache ∧
      g.answers = f₂.answers ∧ g.wire = f₂.wire := by
  obtain ⟨_, f₁, hPaid, h⟩ := HostOutcome.andThen_eq_ok h
  obtain ⟨rx, f₂, hExchange, h⟩ := HostOutcome.andThen_eq_ok h
  refine ⟨f₁, f₂, rx, hPaid, hExchange, ?_⟩
  split at h
  · rw [Facade.check_eq] at h
    split at h
    · injection h with hCode
      exact absurd hCode ‹_›
    · cases h
      exact ⟨rfl, Block.regcache_ext fun k => (operate_writtenBy _ f₂.block).slot_eq rfl, rfl, rfl⟩
  · cases h
    exact ⟨rfl, rfl, rfl, rfl⟩

@[simp] theorem storeBlock_answers (ws : List Word) (f : Facade) :
    (storeBlock ws f).answers = f.answers :=
  List.foldlRecOn (motive := fun g : Facade => g.answers = f.answers) _ _ rfl fun _ h _ _ => h

/-- Reading the block uses up answers, the one of its exchange at least. -/
theorem readBlockCrcSteps_answers {p : HostParams} {f g : Facade}
    (h : readBlockCrcSteps p f = .done .ok () g) : g.answers.length < f.answers.length := by
  obtain ⟨data, f₁, hRead, h⟩ := HostOutcome.andThen_eq_ok h
  cases h
  obtain ⟨f₂, f₃, rx, hPaid, hExchange, -, -, hAnswers, -⟩ := blockRead_eq_ok hRead
  obtain ⟨-, hUsed⟩ := Facade.exchange_eq_ok_frame hExchange
  have hBefore := (Facade.steady_answers _).payReset le_rfl p _ _ _ _ hPaid
  rw [storeBlock_answers, hAnswers]
  exact hUsed.trans_le hBefore

/-! ### The passes of `regenerate_crc` (spec/42_register_bitfield.md R134) -/

/-- The block's CRC invariant is one of the cache alone (R128). -/
theorem Block.BlockCrcHolds.congr {b c : Block} (h : b.regcache = c.regcache) (hb : b.BlockCrcHolds) :
    c.BlockCrcHolds := by
  rwa [Block.BlockCrcHolds, ← Block.slot_congr h, ← Block.blockBytes_congr h]

/-- A register below the CRC-protected block is no part of its invariant (R128). -/
theorem Block.BlockCrcHolds.setSlot {b : Block} {i : RegIndex} (hi : i.val < 8) (v : Word)
    (hb : b.BlockCrcHolds) : (b.setSlot i v).BlockCrcHolds := by
  have hSlot (k : RegIndex) (hk : 8 ≤ k.val) : (b.setSlot i v).slot k = b.slot k :=
    Block.slot_setSlot_of_ne b v (by rintro rfl; omega)
  have hLast := hSlot 15 (by decide)
  rwa [Block.BlockCrcHolds, hLast,
    blockBytes_congr_of_slots (fun k hk _ => hSlot k hk) (congrArg hi8 hLast)]

/-- `read_register` that returned `OK` cached the word it returns and wrote no other slot (R132). -/
theorem readRegisterSteps_eq_ok {p : HostParams} {i : RegIndex} {upd : Bool} {f g : Facade} {x : Word}
    (h : readRegisterSteps p i upd f = .done .ok x g) :
    ∃ b : Block, b.regcache = f.block.regcache ∧ g.block = b.setSlot i x ∧
      g.answers.length ≤ f.answers.length := by
  obtain ⟨_, f₁, hPaid, h⟩ := HostOutcome.andThen_eq_ok h
  obtain ⟨_, f₂, hRead, h⟩ := HostOutcome.andThen_eq_ok h
  cases h
  have hKept {P : Facade → Prop} (hP : Facade.Steady P) (hf : P f) : P f₂ :=
    hP.safeRead (hP.payReset hf p true _ _ _ hPaid) _ _ _ _ _ hRead
  refine ⟨f₂.block, hKept (Facade.steady_regcache _) rfl, ?_, hKept (Facade.steady_answers _) le_rfl⟩
  rw [Facade.invoke_block, operate_cacheWr_toPort, Block.drive_snd]

/-- `BLOCK_CRC` seals the block, and the write that follows does not write the cache (R134). -/
theorem writeBlockCrc_leaves {P : Facade → Prop} (hP : Facade.Steady P) {f : Facade}
    (h : P { f with block := f.block.sealed }) (p : HostParams) : (writeBlockCrc p f).Leaves P := by
  rw [writeBlockCrc, Facade.call_of_operate (operate_blockCrc_sealed f.block)]
  exact hP.safeWrite h p _ _

/-- One pass that went through to its status read, which answered `stat` (R134). -/
def RegenerationPass (p : HostParams) (f : Facade) (stat : Word) (g : Facade) : Prop :=
  ∃ f₁ st f₂, readBlockCrcSteps p f = .done .ok () f₁ ∧ writeBlockCrc p f₁ = .done st () f₂ ∧
    readRegisterSteps p RegIndex.stat false f₂ = .done .ok stat g

namespace RegenerationPass

variable {p : HostParams} {f g : Facade} {stat : Word} (h : RegenerationPass p f stat g)

include h

/-- After `BLOCK_CRC` the pass writes the cache at `STAT` only. -/
theorem block_eq : ∃ b : Block, b.BlockCrcHolds ∧ g.block = b.setSlot RegIndex.stat stat := by
  obtain ⟨f₁, st, f₂, -, hWrite, hStat⟩ := h
  have hCache := writeBlockCrc_leaves (Facade.steady_regcache _) rfl p _ _ _ hWrite
  obtain ⟨b, hSame, hBlock, -⟩ := readRegisterSteps_eq_ok hStat
  exact ⟨b, .congr (hSame.trans hCache).symm f₁.block.sealed_blockCrcHolds, hBlock⟩

theorem blockCrcHolds : g.block.BlockCrcHolds := by
  obtain ⟨b, hCrc, hBlock⟩ := h.block_eq
  exact hBlock ▸ hCrc.setSlot (by decide) stat

theorem slot_stat : g.block.slot 0 = stat := by
  obtain ⟨b, -, hBlock⟩ := h.block_eq
  rw [hBlock, Block.slot_setSlot_same]

theorem answers_lt : g.answers.length < f.answers.length := by
  obtain ⟨f₁, st, f₂, hRead, hWrite, hStat⟩ := h
  have hWritten : f₂.answers.length ≤ f₁.answers.length :=
    writeBlockCrc_leaves (Facade.steady_answers _) le_rfl p _ _ _ hWrite
  obtain ⟨-, -, -, hStatus⟩ := readRegisterSteps_eq_ok hStat
  exact (hStatus.trans hWritten).trans_lt (readBlockCrcSteps_answers hRead)

end RegenerationPass

/-- A code that is not `OK` ends the passes with one that is not `OK` (R134 step 6). -/
theorem done_firstError_ne (acc : ResultCode) {st : ResultCode} (h : st ≠ .ok) (f g : Facade) :
    HostOutcome.done (firstError acc st) () f ≠ .done .ok () g := by
  intro e
  injection e with hCode
  unfold firstError at hCode
  split at hCode
  · exact h hCode
  · contradiction

/-- All that passes which returned `OK` can have done: one pass that ended them, its status not pending or
the retries met, or one pass and then others. -/
theorem regeneratePasses_eq_ok {p : HostParams} {n : Nat} {acc : ResultCode} {f g : Facade}
    (h : regeneratePasses p n acc f = .done .ok () g) :
    ∃ stat f₁, RegenerationPass p f stat f₁ ∧
      ((g = f₁ ∧ (p.writePending stat = true → n = 0)) ∨
        ∃ m acc', n = m + 1 ∧ regeneratePasses p m acc' f₁ = .done .ok () g) := by
  unfold regeneratePasses at h
  split at h
  case h_3 hOk _ _ => exact absurd h (done_firstError_ne acc hOk _ _)
  case h_1 f₁ hRead =>
    split at h
    case h_2 st _ f₂ _ hWrite =>
      split at h
      case h_3 hOk _ _ => exact absurd h (done_firstError_ne _ hOk _ _)
      case h_1 stat f₃ hStat =>
        refine ⟨stat, f₃, ⟨f₁, st, f₂, hRead, hWrite, hStat⟩, ?_⟩
        split at h
        next hPending =>
          cases n with
          | zero =>
            injection h with _ _ hEnd
            exact .inl ⟨hEnd.symm, fun _ => rfl⟩
          | succ m => exact .inr ⟨m, _, rfl, h⟩
        next hDone =>
          injection h with _ _ hEnd
          exact .inl ⟨hEnd.symm, fun hPending => absurd hPending hDone⟩
      all_goals cases h
    all_goals cases h
  all_goals cases h

/-- Every pass establishes the invariant; the one that ends the passes found no write pending, unless the
retries were met, for which the answers did not last. -/
theorem regeneratePasses_invariant {p : HostParams} {n : Nat} {acc : ResultCode} {f g : Facade}
    (h : regeneratePasses p n acc f = .done .ok () g) :
    g.block.BlockCrcHolds ∧
      (f.answers.length ≤ n → p.writePending (g.block.slot 0) = false) := by
  induction n generalizing acc f with
  | zero =>
    obtain ⟨stat, f₁, hPass, ⟨rfl, -⟩ | ⟨m, acc', hm, -⟩⟩ := regeneratePasses_eq_ok h
    · exact ⟨hPass.blockCrcHolds, fun hn => absurd (hPass.answers_lt.trans_le hn) (Nat.not_lt_zero _)⟩
    · cases hm
  | succ n ih =>
    obtain ⟨stat, f₁, hPass, ⟨rfl, hPending⟩ | ⟨m, acc', hm, hRest⟩⟩ := regeneratePasses_eq_ok h
    · refine ⟨hPass.blockCrcHolds, fun _ => ?_⟩
      rw [hPass.slot_stat]
      exact Bool.eq_false_iff.mpr fun hp => absurd (hPending hp) n.succ_ne_zero
    · cases hm
      obtain ⟨hCrc, hDone⟩ := ih hRest
      exact ⟨hCrc, fun hn => hDone (Nat.le_of_lt_succ (hPass.answers_lt.trans_le hn))⟩

/-- Settles O53: the retries of the unbounded reading are as many as the answers. -/
theorem regenerationLeavesTheBlockInvariant : Obligations.RegenerationLeavesTheBlockInvariant := by
  intro p f g h
  rw [regenerateCrc, Facade.whenUsable_of_usable (usable_of_whenUsable h), regenerateCrcSteps] at h
  obtain ⟨hCrc, hDone⟩ := regeneratePasses_invariant h
  exact ⟨hCrc, fun hUnbounded => hDone (by rw [retriesAllowed, hUnbounded])⟩

end Sys2Proof.Machine

/-! ### The register map (spec/42_register_bitfield.md R133) -/

namespace Sys2Proof.Machine

/-- The mapped register at an address is the one whose address it is (R59). -/
theorem indexAtAddress_eq_some_iff {a : Nat} {k : RegIndex} :
    indexAtAddress a = some k ↔ sensorAddress k.toPort = a := by
  have hBound := (addressField k).isLt
  rw [addressField_toNat] at hBound
  have hField (ha : a < 64) : (BitVec.ofNat 6 a).zeroExtend 16 <<< 4 = BitVec.ofNat 16 a <<< 4 := by
    congr 1
    refine BitVec.eq_of_toNat_eq ?_
    simp only [BitVec.toNat_setWidth, BitVec.toNat_ofNat]
    omega
  constructor
  · intro h
    unfold indexAtAddress at h
    split at h
    next ha =>
      rw [← hField ha] at h
      have hRow := address_of_regIdx _ k h
      rw [sensorAddress, List.getD_eq_getElem?_getD, hRow, Option.getD_some, BitVec.toNat_ofNat]
      omega
    next => cases h
  · rintro rfl
    rw [indexAtAddress, if_pos hBound, ← hField hBound]
    exact regIdx_addressField k

/-- One word of a block read, cached where its address is in the map (R133). -/
def storeWord (a : Nat) (w : Word) (f : Facade) : Facade :=
  match indexAtAddress a with
  | some i => f.invoke (.cacheWr i.toPort w)
  | none => f

theorem storeMapped_cons (a : Nat) (w : Word) (ws : List Word) (f : Facade) :
    storeMapped a (w :: ws) f = storeMapped (a + 1) ws (storeWord a w f) := rfl

@[simp] theorem storeWord_wire (a : Nat) (w : Word) (f : Facade) :
    (storeWord a w f).wire = f.wire := by
  unfold storeWord
  split <;> rfl

/-- The word goes to the slot of the register at its address, and to no other. -/
theorem storeWord_slot (a : Nat) (w : Word) (f : Facade) (k : RegIndex) :
    (storeWord a w f).block.slot k =
      if sensorAddress k.toPort = a then w else f.block.slot k := by
  rw [if_congr indexAtAddress_eq_some_iff.symm rfl rfl, storeWord]
  cases indexAtAddress a with
  | none => rfl
  | some i =>
    rw [Facade.invoke_block, operate_cacheWr_toPort, Block.drive_snd]
    by_cases hk : i = k
    · rw [hk, Block.slot_setSlot_same, if_pos rfl]
    · rw [Block.slot_setSlot_of_ne _ _ hk, if_neg fun e => hk (Option.some.inj e)]

@[simp] theorem storeMapped_wire (a : Nat) (ws : List Word) (f : Facade) :
    (storeMapped a ws f).wire = f.wire := by
  induction ws generalizing a f with
  | nil => rfl
  | cons w ws ih => rw [storeMapped_cons, ih, storeWord_wire]

/-- A slot holds the word answered for its register's address; where none was, it is as it was. -/
theorem storeMapped_slot_cases (a : Nat) (ws : List Word) (f : Facade) (k : RegIndex) :
    (∃ j, a + j = sensorAddress k.toPort ∧ ws[j]? = some ((storeMapped a ws f).block.slot k)) ∨
      ((∀ j < ws.length, a + j ≠ sensorAddress k.toPort) ∧
        (storeMapped a ws f).block.slot k = f.block.slot k) := by
  induction ws generalizing a f with
  | nil => exact .inr ⟨fun _ hj => absurd hj (Nat.not_lt_zero _), rfl⟩
  | cons w ws ih =>
    rw [storeMapped_cons]
    rcases ih (a + 1) (storeWord a w f) with ⟨j, hAddress, hWord⟩ | ⟨hNone, hSlot⟩
    · exact .inl ⟨j + 1, by omega, hWord⟩
    · rw [hSlot, storeWord_slot]
      by_cases hHere : sensorAddress k.toPort = a
      · exact .inl ⟨0, hHere.symm, by simp [hHere]⟩
      · refine .inr ⟨fun j hj => ?_, if_neg hHere⟩
        cases j with
        | zero => exact fun e => hHere e.symm
        | succ j =>
          have hNext := hNone j (Nat.lt_of_succ_lt_succ hj)
          omega

/-- The offset of a register is its address, four bits up (R59). -/
theorem regOff_toNat_div (k : RegIndex) : (regOff k).toNat / 16 = sensorAddress k.toPort := by
  revert k
  decide

/-- Slot value `x` of register `k` is the word that one of the reads `cmds`, logged in `made`, was answered
with for the register's address (R133). -/
def AnsweredBy (cmds : List Word) (made : List WireCall) (k : RegIndex) (x : Word) : Prop :=
  ∃ (cmd : Word) (rx : List Word) (j : Nat), cmd ∈ cmds ∧ .exchange [cmd] (some rx) ∈ made ∧
    j < (commandFields cmd).nd.toNat ∧
    (commandFields cmd).addr.toNat + j = sensorAddress k.toPort ∧ rx[j]? = some x

theorem AnsweredBy.mono {cmds cmds' : List Word} {made made' : List WireCall} {k : RegIndex} {x : Word}
    (h : AnsweredBy cmds made k x) (hCmds : cmds ⊆ cmds') (hMade : made ⊆ made') :
    AnsweredBy cmds' made' k x := by
  obtain ⟨cmd, rx, j, hCmd, hCall, hRest⟩ := h
  exact ⟨cmd, rx, j, hCmds hCmd, hMade hCall, hRest⟩

theorem mem_readAddresses {cmd : Word} {a : Nat} :
    a ∈ readAddresses cmd ↔
      ∃ j < (commandFields cmd).nd.toNat, (commandFields cmd).addr.toNat + j = a := by
  simp [readAddresses]

/-- A block read that returned `OK`, by the calls it made: they hold its one exchange, whose data words it
returns, one for each address it asks for; the cache is as it was. -/
theorem blockRead_eq_ok_made {p : HostParams} {cmd : Word} {f g : Facade} {data : List Word}
    (hKind : commandKind cmd = .read) (h : blockRead p cmd f = .done .ok data g) :
    ∃ made rx, g.wire = f.wire ++ made ∧ .exchange [cmd] (some rx) ∈ made ∧
      data = rx.take (commandFields cmd).nd.toNat ∧
      data.length = (commandFields cmd).nd.toNat ∧ g.block.regcache = f.block.regcache := by
  obtain ⟨f₁, f₂, rx, hPaid, hExchange, hData, hCache, -, hWire⟩ := blockRead_eq_ok h
  obtain ⟨hCall, hLength⟩ := Facade.exchange_eq_ok hExchange
  obtain ⟨hBlock, -⟩ := Facade.exchange_eq_ok_frame hExchange
  have hPaidCache := (Facade.steady_regcache _).payReset rfl p _ _ _ _ hPaid
  have hSame : g.block.regcache = f.block.regcache := by rw [hCache, hBlock, hPaidCache]
  have hDataLength : data.length = (commandFields cmd).nd.toNat := by
    have hFrame := rxn_toNat_of_read (c := commandFields cmd) hKind
    rw [hData, List.length_take, hLength]
    omega
  have hLogged (made : List WireCall) (hMade : f₁.wire = f.wire ++ made) :
      g.wire = f.wire ++ (made ++ [.exchange [cmd] (some rx)]) := by
    rw [hWire, hCall, hMade, List.append_assoc]
  rcases payReset_eq_ok hPaid with hWire₁ | ⟨e, -, hWire₁⟩
  · exact ⟨_, rx, hLogged [] (by simpa using hWire₁), by simp, hData, hDataLength, hSame⟩
  · exact ⟨_, rx, hLogged _ hWire₁, by simp, hData, hDataLength, hSame⟩

/-- After the reads, a slot holds the answer to one of them, or no read asked for its register. -/
theorem readMapSteps_eq_ok {p : HostParams} {cmds : List Word} {f g : Facade}
    (hKinds : ∀ cmd ∈ cmds, commandKind cmd = .read)
    (h : readMapSteps p cmds f = .done .ok () g) :
    ∃ made, g.wire = f.wire ++ made ∧ ∀ k : RegIndex, AnsweredBy cmds made k (g.block.slot k) ∨
      (g.block.slot k = f.block.slot k ∧ sensorAddress k.toPort ∉ cmds.flatMap readAddresses) := by
  induction cmds generalizing f with
  | nil =>
    cases h
    exact ⟨[], by simp, fun k => .inr ⟨rfl, by simp⟩⟩
  | cons cmd cmds ih =>
    rw [List.forall_mem_cons] at hKinds
    obtain ⟨hKind, hKinds⟩ := hKinds
    obtain ⟨data, f₁, hRead, h⟩ := HostOutcome.andThen_eq_ok h
    obtain ⟨made, rx, hWire, hCall, hData, hLength, hCache⟩ := blockRead_eq_ok_made hKind hRead
    obtain ⟨made', hWire', hSlots⟩ := ih hKinds h
    rw [storeMapped_wire, hWire, List.append_assoc] at hWire'
    refine ⟨made ++ made', hWire', fun k => ?_⟩
    rcases hSlots k with hAnswered | ⟨hSlot, hNotAsked⟩
    · exact .inl (hAnswered.mono (List.subset_cons_self _ _) (List.subset_append_right _ _))
    · rw [hSlot]
      rcases storeMapped_slot_cases (commandFields cmd).addr.toNat data f₁ k with
        ⟨j, hAddress, hWord⟩ | ⟨hNone, hKept⟩
      · have hj : j < (commandFields cmd).nd.toNat := hLength ▸ (List.getElem?_eq_some_iff.mp hWord).1
        have hAnswer : rx[j]? = data[j]? := by rw [hData, List.getElem?_take_of_lt hj]
        exact .inl ⟨cmd, rx, j, List.mem_cons_self, List.mem_append_left _ hCall, hj, hAddress,
          hAnswer.trans hWord⟩
      · refine .inr ⟨hKept.trans (Block.slot_congr hCache k), ?_⟩
        rw [List.flatMap_cons, List.mem_append, mem_readAddresses, ← hLength]
        rintro (⟨j, hj, hAddress⟩ | hLater)
        · exact hNone j hj hAddress
        · exact hNotAsked hLater

/-- Settles O60: the four reads ask for every register, so each slot holds an answer. -/
theorem registerMapFillsEverySlot : Obligations.RegisterMapFillsEverySlot := by
  rintro p f g ⟨-, -, -, hKinds, hCover⟩ h
  rw [readRegisterMap, Facade.whenUsable_of_usable (usable_of_whenUsable h)] at h
  have hRead (cmd : Word) (hCmd : cmd ∈ p.regmapCmds.toList) : commandKind cmd = .read :=
    of_decide_eq_true (List.all_eq_true.mp hKinds cmd hCmd)
  obtain ⟨made, hWire, hSlots⟩ := readMapSteps_eq_ok hRead h
  refine ⟨made, hWire, fun k => (hSlots k).resolve_right fun ⟨_, hNotAsked⟩ => hNotAsked ?_⟩
  have hAsked := List.contains_iff_mem.mp (List.all_eq_true.mp hCover k (List.mem_finRange k))
  rwa [regOff_toNat_div] at hAsked

end Sys2Proof.Machine

/-! ### The value getters (spec/42_register_bitfield.md R136, spec/60_exceptions.md R189) -/

namespace Sys2Proof.Machine

/-! #### Sign extension (R158) -/

/-- Subtracting the weight of the sign bit twice where it is set is a wrap round the middle of the range. -/
theorem signed_succ (n : Nat) (raw : Word) :
    signed (n + 1) raw =
      if (raw.toNat % 2 ^ (n + 1)).testBit n then ((raw.toNat % 2 ^ (n + 1) : Nat) : Int) - 2 ^ (n + 1)
      else (raw.toNat % 2 ^ (n + 1) : Nat) := by
  have hBound : raw.toNat % 2 ^ (n + 1) < 2 ^ (n + 1) := Nat.mod_lt _ (Nat.two_pow_pos _)
  rw [signed, Nat.add_sub_cancel, ← Nat.mod_add_mod]
  generalize raw.toNat % 2 ^ (n + 1) = u at hBound
  have hDouble : 2 ^ (n + 1) = 2 * 2 ^ n := Nat.pow_succ'
  cases hSign : u.testBit n with
  | false =>
    have hLow : u < 2 ^ n := by
      by_contra hHigh
      have hSet := Nat.testBit_of_two_pow_le_and_two_pow_add_one_gt (Nat.not_lt.mp hHigh) hBound
      simp [hSet] at hSign
    rw [Nat.mod_eq_of_lt (by omega)]
    simp
  | true =>
    have hHigh : 2 ^ n ≤ u := Nat.ge_two_pow_of_testBit hSign
    rw [Nat.mod_eq_sub_mod (by omega), Nat.mod_eq_of_lt (by omega)]
    push_cast [Nat.cast_sub (show 2 ^ (n + 1) ≤ u + 2 ^ n by omega)]
    simp only [if_true]
    ring

theorem sext15_eq_signed (raw : Word) : sext15 raw = signed 15 raw := by
  have hLow : (raw &&& 0x7FFF).toNat = raw.toNat % 2 ^ 15 :=
    (BitVec.toNat_and ..).trans (Nat.and_two_pow_sub_one_eq_mod raw.toNat 15)
  rw [sext15, hLow, signed_succ]
  rfl

theorem sext9_eq_signed (raw : Word) : sext9 raw = signed 9 raw := by
  have hLow : (raw &&& 0x01FF).toNat = raw.toNat % 2 ^ 9 :=
    (BitVec.toNat_and ..).trans (Nat.and_two_pow_sub_one_eq_mod raw.toNat 9)
  rw [sext9, hLow, signed_succ]
  rfl

/-! #### The conversions, as functions of the block (R152 to R156) -/

theorem operate_cnvAngle (b : Block) (raw : Word) :
    b.operate (.cnvAngle raw) = b.drive
      { si := signed 15 raw, q := Config.num (.finite ((signed 15 raw : Rat) * 45 / 4096)) } := by
  have hDegrees : (signed 15 raw : Rat) * 45 / 4096 = (signed 15 raw : Rat) * 360 / 32768 := by ring
  rw [hDegrees, ← sext15_eq_signed]
  rfl

theorem operate_cnvRevol (b : Block) (raw : Word) :
    b.operate (.cnvRevol raw) =
      b.drive { si := signed 9 raw, out := BitVec.ofInt 16 (signed 9 raw) } := by
  rw [← sext9_eq_signed]
  rfl

theorem operate_cnvTemp (b : Block) (raw : Word) :
    b.operate (.cnvTemp raw) = b.drive
      { si := signed 9 raw
        q := Config.num (.finite (((signed 9 raw : Rat) + 152) * 125 / 347)) } := by
  have hCelsius : ((signed 9 raw : Rat) + 152) * 125 / 347 =
      ((signed 9 raw : Rat) + 152) / (347 / 125) := by ring
  rw [hCelsius, ← sext9_eq_signed]
  rfl

theorem operate_cnvRange (b : Block) (v : Word) :
    b.operate (.cnvRange v) =
      b.drive { qc := (rangeDegrees v).cls, q := Config.num (rangeDegrees v) } := rfl

theorem rangeDegrees_of_ne {v : Word} (h : v ≠ 0) :
    rangeDegrees v = .finite (46080 / (v.toNat : Rat)) := by
  rw [rangeDegrees, if_neg h]
  norm_num

theorem operate_cnvSpeed (b : Block) (rng : Quantity) (raw v : Word) (pred : Bool) :
    b.operate (.cnvSpeed rng raw v pred) = b.drive
      { si := signed 15 raw
        qc := (speedDegreesPerSecond rng raw v pred).cls
        q := Config.num (speedDegreesPerSecond rng raw v pred) } := by
  rw [← sext15_eq_signed]
  rfl

/-! #### A failed operation (R170) -/

theorem withIndex_ok_or_measurement_zero {ri : BitVec 5} {b : Block} {k : RegIndex → Result}
    (hk : ∀ i, (k i).1.st = .ok ∨ (k i).1.measurement = {}) :
    (withIndex ri b k).1.st = .ok ∨ (withIndex ri b k).1.measurement = {} := by
  rcases withIndex_cases ri b k with ⟨i, -, h⟩ | ⟨-, h⟩
  · exact h ▸ hk i
  · exact h ▸ .inr rfl

/-- An operation that answers another code than `OK` leaves at zero the ports a getter passes on. -/
theorem operate_ok_or_measurement_zero (i : Instr) (b : Block) :
    (b.operate i).1.st = .ok ∨ (b.operate i).1.measurement = {} := by
  cases i with
  | regoff | buildRd | buildWr | cacheWr | cacheRd =>
    exact withIndex_ok_or_measurement_zero fun _ => .inl rfl
  | fldGet | fldSet | fldChk =>
    refine withIndex_ok_or_measurement_zero fun _ => ?_
    split
    · exact .inl rfl
    · exact .inr rfl
  | check w cmd pl =>
    cases h : statusBitsError w with
    | some c => exact .inr (by rw [operate_check_of_status h]; rfl)
    | none => exact .inr (by rw [operate_check_of_crc h]; rfl)
  | reserved06 | reserved07 | reserved0D | reserved0E | reserved0F | reserved16 | reserved17
  | reserved1D | reserved1E | reserved1F => exact .inr rfl
  | _ => exact .inl rfl

/-! #### What a getter returns -/

/-- A sequence that hands on the code and the ports of its last operation returns zero on any error. -/
theorem HostOutcome.measurement_zero_of_error {α : Type} {r : HostOutcome α}
    {k : α → Facade → HostOutcome Measurement} {st : ResultCode} {m : Measurement} {g : Facade}
    (hk : ∀ x f, ∃ i b h, k x f = .done (Block.operate b i).1.st (Block.operate b i).1.measurement h)
    (h : r.andThen {} k = .done st m g) (hSt : st ≠ .ok) : m = {} := by
  rcases HostOutcome.andThen_eq_done h with ⟨x, f, -, hLast⟩ | ⟨_, -, -, hZero⟩
  · obtain ⟨i, b, f', hOp⟩ := hk x f
    rw [hOp] at hLast
    cases hLast
    exact (operate_ok_or_measurement_zero i b).resolve_left hSt
  · exact hZero

/-- A getter of one input whose read answers `OK` returns what its conversion drives (R136). -/
theorem valueGetter_of_read {p : HostParams} {input : GetterInput} {f g : Facade} {x : Word}
    (hRead : readInput p input f = .done .ok x g) {conversion : Word → Instr} {o : Outputs}
    (hConversion : g.block.operate (conversion x) = g.block.drive o) :
    valueGetter p input conversion f = .done o.st o.measurement g := by
  rw [valueGetter, hRead, HostOutcome.andThen_ok, Facade.call_of_drive hConversion]

/-- The range a speed getter hands on: the class where it is not finite, else the value (R151). -/
theorem range_quantity (v : Word) :
    ({ qc := (rangeDegrees v).cls, q := Config.num (rangeDegrees v) } : Outputs).quantity =
      if v = 0 then .posInf else Config.num (.finite (46080 / (v.toNat : Rat))) := by
  split
  next h =>
    subst h
    rfl
  next h =>
    rw [rangeDegrees_of_ne h]
    rfl

/-- Settles O56: a failed read ends a getter with zero, and a failed conversion drives zeros; a conversion of
words read `OK` is the last operation. -/
theorem gettersReturnZeroOnError : Obligations.GettersReturnZeroOnError := by
  refine ⟨fun p input conversion f g st m h => HostOutcome.measurement_zero_of_error
      (fun x f => ⟨conversion x, f.block, _, rfl⟩) h,
    fun p speed range fir pred f g st m h => HostOutcome.measurement_zero_of_error
      (fun xs f => ⟨_, _, _, rfl⟩) h, fun p input f g x h => ⟨?_, ?_, ?_, ?_, ?_⟩,
    fun p speed range fir pred f g a v m e h => ?_⟩
  · rintro rfl
    exact valueGetter_of_read h (operate_cnvAngle g.block x)
  · exact valueGetter_of_read h (operate_cnvRevol g.block x)
  · exact valueGetter_of_read h (operate_cnvTemp g.block x)
  · intro hx
    have hRange := operate_cnvRange g.block x
    rw [rangeDegrees_of_ne hx] at hRange
    exact valueGetter_of_read h hRange
  · rintro rfl
    exact ⟨_, valueGetter_of_read h (operate_cnvRange g.block 0)⟩
  · intro rng r
    have hPred : (e != 0) = decide (e ≠ 0) := by rw [Bool.eq_iff_iff]; simp
    rw [speedGetter, h, HostOutcome.andThen_ok, Facade.call_of_drive (operate_cnvRange g.block _),
      Facade.call_of_drive (operate_cnvSpeed g.block _ _ _ _)]
    simp only [List.getD_cons_zero, List.getD_cons_succ, hPred, range_quantity v]
    rfl

end Sys2Proof.Machine

/-! ### The conversions (spec/43_conversion.md R152 to R156) -/

namespace Sys2Proof.Machine

/-! #### The integer stage (R158) -/

/-- The signed reading of `n + 1` bits lies in the two's-complement range. -/
theorem signed_bounds (n : Nat) (raw : Word) :
    -2 ^ n ≤ signed (n + 1) raw ∧ signed (n + 1) raw < 2 ^ n := by
  have hMod : (raw.toNat + 2 ^ n) % 2 ^ (n + 1) < 2 ^ (n + 1) := Nat.mod_lt _ (Nat.two_pow_pos _)
  have hDouble : 2 ^ (n + 1) = 2 * 2 ^ n := Nat.pow_succ'
  have hCast : ((2 ^ n : Nat) : Int) = 2 ^ n := by push_cast; rfl
  rw [signed, Nat.add_sub_cancel]
  omega

theorem signed_15_bounds (raw : Word) : -16384 ≤ signed 15 raw ∧ signed 15 raw < 16384 :=
  signed_bounds 14 raw

theorem signed_9_bounds (raw : Word) : -256 ≤ signed 9 raw ∧ signed 9 raw < 256 :=
  signed_bounds 8 raw

/-! #### Angle, revolutions, temperature and range (R152 to R155) -/

/-- Settles O36: the range of the raw angle, scaled. -/
theorem angleConversion : Obligations.AngleConversion := by
  refine ⟨fun p h => by simp [decode, decodePorts, h], fun raw s => ?_⟩
  obtain ⟨hLow, hHigh⟩ := signed_15_bounds raw
  have hLow' : (-16384 : Rat) ≤ signed 15 raw := by exact_mod_cast hLow
  have hHigh' : (signed 15 raw : Rat) < 16384 := by exact_mod_cast hHigh
  refine ⟨exec_eq_drive (operate_cnvAngle s.toBlock raw), ?_, ?_⟩
  · change (-180 : Rat) ≤ (signed 15 raw : Rat) * 45 / 4096
    linarith
  · change (signed 15 raw : Rat) * 45 / 4096 < 180
    linarith

/-- Settles O37: a count of nine bits keeps its value in sixteen. -/
theorem revolutionCountConversion : Obligations.RevolutionCountConversion := by
  refine ⟨fun p h => by simp [decode, decodePorts, h],
    fun raw s => ⟨_, exec_eq_drive (operate_cnvRevol s.toBlock raw), ?_⟩⟩
  obtain ⟨hLow, hHigh⟩ := signed_9_bounds raw
  exact BitVec.toInt_ofInt_eq_self (by decide) (by omega) (by omega)

/-- Settles O38: the operation drives the reference temperature of the signed reading. -/
theorem temperatureConversion : Obligations.TemperatureConversion :=
  ⟨fun p h => by simp [decode, decodePorts, h],
    fun raw s => exec_eq_drive (operate_cnvTemp s.toBlock raw)⟩

/-- Settles O39: the reference range where the divisor is zero and where it is not. -/
theorem angleRangeConversion : Obligations.AngleRangeConversion := by
  refine ⟨fun p h => by simp [decode, decodePorts, h], fun v s => ⟨fun hv => ?_, ?_⟩⟩
  · have hRange := operate_cnvRange s.toBlock v
    rw [rangeDegrees_of_ne hv] at hRange
    exact exec_eq_drive hRange
  · rintro rfl
    exact ⟨_, exec_eq_drive (operate_cnvRange s.toBlock 0)⟩

end Sys2Proof.Machine

/-! #### The arithmetic of the classes (R151) -/

namespace Sys2Proof

/-- The infinity of a number's sign, and `NAN` for zero: what R151 gives where a value leaves the
rationals. -/
def infinityOfSign (x : Rat) : Quantity :=
  if 0 < x then .posInf else if x < 0 then .negInf else .nan

theorem infinityOfSign_of_pos {x : Rat} (h : 0 < x) : infinityOfSign x = .posInf := if_pos h

theorem infinityOfSign_of_neg {x : Rat} (h : x < 0) : infinityOfSign x = .negInf := by
  rw [infinityOfSign, if_neg h.not_gt, if_pos h]

@[simp] theorem infinityOfSign_zero : infinityOfSign 0 = .nan := rfl

/-- Scaling by a positive number keeps the sign. -/
theorem infinityOfSign_div {c : Rat} (hc : 0 < c) (x : Rat) :
    infinityOfSign (x / c) = infinityOfSign x := by
  simp only [infinityOfSign, lt_div_iff₀ hc, div_lt_iff₀ hc, zero_mul]

/-- The class for each sign of the number. -/
theorem cls_infinityOfSign (x : Rat) :
    (0 < x → (infinityOfSign x).cls = .posInf) ∧ (x < 0 → (infinityOfSign x).cls = .negInf) ∧
      (x = 0 → (infinityOfSign x).cls = .nan) :=
  ⟨fun h => by rw [infinityOfSign_of_pos h]; rfl, fun h => by rw [infinityOfSign_of_neg h]; rfl,
    fun h => by rw [h]; rfl⟩

theorem cls_infinityOfSign_ne_finite (x : Rat) : (infinityOfSign x).cls ≠ .finite := by
  obtain ⟨hPos, hNeg, hZero⟩ := cls_infinityOfSign x
  rcases lt_trichotomy x 0 with h | h | h
  · simp [hNeg h]
  · simp [hZero h]
  · simp [hPos h]

namespace Quantity

theorem finite_divRat_zero (q : Rat) : (finite q).divRat 0 = infinityOfSign q := by
  rw [divRat, if_pos rfl, infinityOfSign]

theorem finite_divRat_of_ne (q : Rat) {x : Rat} (h : x ≠ 0) :
    (finite q).divRat x = finite (q / x) := if_neg h

theorem posInf_mulRat (x : Rat) : posInf.mulRat x = infinityOfSign x := rfl

theorem negInf_mulRat (x : Rat) : negInf.mulRat x = infinityOfSign (-x) := by
  simp only [infinityOfSign, Left.neg_pos_iff, Left.neg_neg_iff]
  rcases lt_trichotomy x 0 with h | rfl | h
  · simp [mulRat, h, h.not_gt]
  · rfl
  · simp [mulRat, h, h.not_gt]

/-- No product brings an infinity or `NAN` back to a number. -/
theorem cls_mulRat_ne_finite {a : Quantity} (ha : a.cls ≠ .finite) (x : Rat) :
    (a.mulRat x).cls ≠ .finite := by
  cases a with
  | finite => exact absurd rfl ha
  | posInf => exact posInf_mulRat x ▸ cls_infinityOfSign_ne_finite x
  | negInf => exact negInf_mulRat x ▸ cls_infinityOfSign_ne_finite (-x)
  | nan => exact ha

/-- Over a divisor that is not negative, and `+0` is not, a class keeps its sign. -/
theorem divRat_of_not_finite {a : Quantity} (ha : a.cls ≠ .finite) {x : Rat} (hx : 0 ≤ x) :
    a.divRat x = a := by
  cases a with
  | finite => exact absurd rfl ha
  | posInf | negInf => exact if_neg hx.not_gt
  | nan => rfl

end Quantity

/-- The table of filter constants as a list (R156); beyond its end the constant is zero (R157). -/
theorem firMicroseconds_eq_getD (v : Word) :
    firMicroseconds v =
      ([213 / 10, 427 / 10, 853 / 10, 1706 / 10] : List Rat).getD v.toNat 0 := by
  unfold firMicroseconds
  match v.toNat with
  | 0 | 1 | 2 | 3 | _ + 4 => rfl

theorem firMicroseconds_pos {v : Word} (h : v.toNat ≤ 3) : 0 < firMicroseconds v := by
  rw [firMicroseconds_eq_getD]
  interval_cases v.toNat <;> norm_num

theorem firMicroseconds_of_gt {v : Word} (h : 3 < v.toNat) : firMicroseconds v = 0 := by
  rw [firMicroseconds_eq_getD]
  exact List.getD_eq_default _ _ h

theorem firMicroseconds_nonneg (v : Word) : 0 ≤ firMicroseconds v := by
  rcases Nat.lt_or_ge 3 v.toNat with h | h
  · exact (firMicroseconds_of_gt h).ge
  · exact (firMicroseconds_pos h).le

theorem predictionMode_pos (pred : Bool) : 0 < predictionMode pred := by
  cases pred <;> norm_num [predictionMode]

end Sys2Proof

/-! #### Speed (R156, R157) -/

namespace Sys2Proof.Machine

/-- The time over which the sensor measures the speed, in seconds: the divisor of R156. -/
def speedWindow (v : Word) (pred : Bool) : Rat :=
  predictionMode pred * firMicroseconds v / 1000000

theorem speedWindow_nonneg (v : Word) (pred : Bool) : 0 ≤ speedWindow v pred :=
  div_nonneg (mul_nonneg (predictionMode_pos pred).le (firMicroseconds_nonneg v)) (by norm_num)

theorem speedWindow_ne_zero {v : Word} (h : v.toNat ≤ 3) (pred : Bool) : speedWindow v pred ≠ 0 :=
  (div_pos (mul_pos (predictionMode_pos pred) (firMicroseconds_pos h)) (by norm_num)).ne'

theorem speedWindow_of_gt {v : Word} (h : 3 < v.toNat) (pred : Bool) : speedWindow v pred = 0 := by
  rw [speedWindow, firMicroseconds_of_gt h, mul_zero, zero_div]

section
variable {rng : Quantity} {r : Rat} {raw v : Word} {pred : Bool}

/-- A finite range gives the finite dividend of R156. -/
theorem speedDegreesPerSecond_finite :
    speedDegreesPerSecond (.finite r) raw v pred =
      (Quantity.finite (r * signed 15 raw / 32768)).divRat (speedWindow v pred) := by
  rw [← sext15_eq_signed, mul_div_right_comm]
  rfl

theorem speedDegreesPerSecond_of_le (h : v.toNat ≤ 3) :
    speedDegreesPerSecond (.finite r) raw v pred =
      .finite (r * signed 15 raw * 1000000 / (32768 * predictionMode pred * firMicroseconds v)) := by
  rw [speedDegreesPerSecond_finite, Quantity.finite_divRat_of_ne _ (speedWindow_ne_zero h pred),
    speedWindow, div_div_div_eq, mul_assoc 32768]

theorem speedDegreesPerSecond_of_gt (h : 3 < v.toNat) :
    speedDegreesPerSecond (.finite r) raw v pred = infinityOfSign (r * signed 15 raw) := by
  rw [speedDegreesPerSecond_finite, speedWindow_of_gt h, Quantity.finite_divRat_zero,
    infinityOfSign_div (by norm_num)]

/-- With a range that is no number, only the sign of the raw speed counts (R151). -/
theorem speedDegreesPerSecond_of_not_finite (h : rng.cls ≠ .finite) :
    speedDegreesPerSecond rng raw v pred = rng.mulRat (signed 15 raw) := by
  have hProduct := Quantity.cls_mulRat_ne_finite h (signed 15 raw)
  rw [← Quantity.divRat_of_not_finite hProduct (speedWindow_nonneg v pred), ← sext15_eq_signed,
    speedDegreesPerSecond, Quantity.divRat_of_not_finite h (by norm_num)]
  rfl

theorem speedDegreesPerSecond_posInf :
    speedDegreesPerSecond .posInf raw v pred = infinityOfSign (signed 15 raw) :=
  speedDegreesPerSecond_of_not_finite (by decide)

theorem speedDegreesPerSecond_negInf :
    speedDegreesPerSecond .negInf raw v pred = infinityOfSign (-signed 15 raw) :=
  (speedDegreesPerSecond_of_not_finite (by decide)).trans (Quantity.negInf_mulRat _)

theorem speedDegreesPerSecond_nan : speedDegreesPerSecond .nan raw v pred = .nan := rfl

end

/-- Settles O40: one clause for each class of the range, the finite one split at the end of the filter
table. -/
theorem speedConversion : Obligations.SpeedConversion := by
  refine ⟨fun p h => by simp [decode, decodePorts, h], fun rng raw v pred s =>
    ⟨_, _, exec_eq_drive (operate_cnvSpeed s.toBlock rng raw v pred), ?_, ?_, ?_, ?_, ?_⟩⟩
  · rintro r rfl h
    rw [speedDegreesPerSecond_of_le h, firMicroseconds_eq_getD]
    exact ⟨rfl, rfl⟩
  · rintro r rfl h
    rw [speedDegreesPerSecond_of_gt h]
    exact cls_infinityOfSign _
  · rintro rfl
    obtain ⟨hPos, hNeg, hZero⟩ := cls_infinityOfSign (signed 15 raw)
    rw [speedDegreesPerSecond_posInf]
    exact ⟨fun h => hPos (Int.cast_pos.mpr h), fun h => hNeg (Int.cast_lt_zero.mpr h),
      fun h => hZero (Int.cast_eq_zero.mpr h)⟩
  · rintro rfl
    obtain ⟨hPos, hNeg, hZero⟩ := cls_infinityOfSign (-signed 15 raw)
    rw [speedDegreesPerSecond_negInf]
    exact ⟨fun h => hNeg (neg_lt_zero.mpr (Int.cast_pos.mpr h)),
      fun h => hPos (neg_pos.mpr (Int.cast_lt_zero.mpr h)),
      fun h => hZero (neg_eq_zero.mpr (Int.cast_eq_zero.mpr h))⟩
  · rintro rfl
    rw [speedDegreesPerSecond_nan]
    rfl

end Sys2Proof.Machine

/-! ### The angle in binary64 (spec/43_conversion.md R152(d), R160) -/

namespace Sys2Proof.Machine

theorem roundHalfEven_mul_right (q : Nat) {den : Nat} (h : 0 < den) :
    roundHalfEven (q * den) den = q := by
  simp [roundHalfEven, h]

/-- The estimate of R160's exponent from the lengths of numerator and denominator is never too small. -/
theorem binaryExponent_le (n d : Nat) : binaryExponent n d ≤ (n.log2 : Int) - d.log2 := by
  unfold binaryExponent
  dsimp only
  split <;> omega

/-- The unit of R160's rounding divides every fraction that fits the significand. -/
theorem exists_unit_exponent {n i : Nat} (hn : n < 2 ^ 53) (hi : i ≤ 1074) :
    ∃ t : Nat, i ≤ t ∧ max (binaryExponent n (2 ^ i) - 52) (-1074) = -(t : Int) := by
  have hLog : n.log2 ≤ 52 := by
    rcases Nat.eq_zero_or_pos n with rfl | hPos
    · exact Nat.zero_le 52
    · exact Nat.le_of_lt_succ ((Nat.log2_lt hPos.ne').mpr hn)
  have hExponent := binaryExponent_le n (2 ^ i)
  rw [Nat.log2_two_pow] at hExponent
  exact ⟨(-max (binaryExponent n (2 ^ i) - 52) (-1074)).toNat, by omega, by omega⟩

theorem natAbs_num_div_den (x : Rat) : (x.num.natAbs : Rat) / x.den = |x| := by
  rw [Rat.abs_def, Rat.divInt_eq_div]
  rfl

/-- Rounding to a multiple of `2 ^ -t` keeps a fraction over `2 ^ i` when `i ≤ t`. -/
theorem roundHalfEven_div_two_pow (n : Nat) {i t : Nat} (h : i ≤ t) :
    (roundHalfEven (n * 2 ^ t) (2 ^ i) : Rat) / (2 ^ t : Nat) = n / (2 ^ i : Nat) := by
  obtain ⟨k, rfl⟩ := Nat.exists_eq_add_of_le' h
  rw [pow_add, ← mul_assoc, roundHalfEven_mul_right _ (Nat.two_pow_pos i)]
  push_cast
  field_simp

/-- What rounding answers where the unit is `2 ^ -t`: a multiple of it, with the sign put back. -/
theorem roundBinary64_of_unit {x magnitude : Rat} {t : Nat}
    (hUnit : max (binaryExponent x.num.natAbs x.den - 52) (-1074) = -(t : Int))
    (hMagnitude : (roundHalfEven (x.num.natAbs * 2 ^ t) x.den : Rat) / (2 ^ t : Nat) = magnitude) :
    roundBinary64 x = if x < 0 then -magnitude else magnitude := by
  subst hMagnitude
  simp only [roundBinary64, hUnit, neg_neg, Int.toNat_natCast]
  cases t with
  | zero => simp
  | succ t =>
    have hNegative : ¬ (0 : Int) ≤ -((t + 1 : Nat) : Int) := by omega
    simp only [if_neg hNegative]

/-- A fraction over a power of two whose numerator fits the significand is exact in binary64. -/
theorem roundBinary64_of_den {x : Rat} {i : Nat} (hDen : x.den = 2 ^ i) (hi : i ≤ 1074)
    (hNum : x.num.natAbs < 2 ^ 53) : roundBinary64 x = x := by
  obtain ⟨t, hit, hUnit⟩ := exists_unit_exponent hNum hi
  have hMagnitude := roundHalfEven_div_two_pow x.num.natAbs hit
  rw [← hDen] at hUnit hMagnitude
  rw [roundBinary64_of_unit hUnit (hMagnitude.trans (natAbs_num_div_den x))]
  split
  next h => rw [abs_of_neg h, neg_neg]
  next h => exact abs_of_nonneg (not_lt.mp h)

/-- An integer over a power of two, in lowest terms or not, is exact if it fits the significand. -/
theorem roundBinary64_div_two_pow {k : Int} {j : Nat} (hj : j ≤ 1074) (hk : k.natAbs < 2 ^ 53) :
    roundBinary64 (k / (2 ^ j : Int)) = k / (2 ^ j : Int) := by
  have hDen : (k / (2 ^ j : Int) : Rat).den ∣ 2 ^ j := by
    exact_mod_cast Rat.den_dvd k (2 ^ j)
  obtain ⟨i, hij, hDen⟩ := (Nat.dvd_prime_pow Nat.prime_two).mp hDen
  refine roundBinary64_of_den hDen (hij.trans hj) ?_
  rcases eq_or_ne k 0 with rfl | hNonzero
  · simp
  · have hNum : (k / (2 ^ j : Int) : Rat).num ∣ k := by
      rw [← Rat.divInt_eq_div]
      exact Rat.num_dvd k (by positivity)
    exact (Int.natAbs_le_of_dvd_ne_zero hNum hNonzero).trans_lt hk

/-- Settles O41: the factor and the product are fractions over `2 ^ 12` that fit the significand. -/
theorem angleIsExactInBinary64 : Obligations.AngleIsExactInBinary64 := by
  intro raw
  obtain ⟨hLow, hHigh⟩ := signed_15_bounds raw
  have hFactor : (360 / 32768 : Rat) = (45 : Int) / (2 ^ 12 : Int) := by norm_num
  have hProduct : (signed 15 raw : Rat) * ((45 : Int) / (2 ^ 12 : Int)) =
      (signed 15 raw * 45 : Int) / (2 ^ 12 : Int) := by
    rw [Int.cast_mul, mul_div_assoc]
  rw [angleBinary64, angleDegrees, sext15_eq_signed, roundQuantity64, mul_div_assoc, hFactor,
    roundBinary64_div_two_pow (by decide) (by decide), hProduct,
    roundBinary64_div_two_pow (by decide) (by omega)]

end Sys2Proof.Machine

/-! ### Which operation answers which code (spec/60_exceptions.md R170, R180, R185) -/

namespace Sys2Proof

/-- What the block refuses to run: a reserved selector code, or an index operand above 21 (R66). -/
def Instr.Illegal (i : Instr) : Prop :=
  i.isReserved = true ∨ ∃ ri, i.indexOperand = some ri ∧ 21 < ri.toNat

/-- The descriptor a field operation works on, and whether it means to write the field (R123). -/
def Instr.fieldIntent : Instr → Option (Descriptor × Bool)
  | .fldGet d _ => some (d, false)
  | .fldSet d _ => some (d, true)
  | .fldChk d wr => some (d, wr)
  | _ => none

/-- A field operation at a legal index whose descriptor lacks the right it needs (R180). -/
def Instr.Denied (i : Instr) : Prop :=
  ∃ d wr, i.fieldIntent = some (d, wr) ∧ d.reg.toNat ≤ 21 ∧ Machine.allowed d wr = false

theorem Instr.denied_iff (i : Instr) :
    i.Denied ↔ ∃ d : Descriptor, d.reg.toNat ≤ 21 ∧
      ((∃ raw, i = .fldGet d raw ∧ d.readable = false) ∨
        (∃ v, i = .fldSet d v ∧ d.writable = false) ∨
        (i = .fldChk d false ∧ d.readable = false) ∨
        (i = .fldChk d true ∧ d.writable = false)) := by
  constructor
  · rintro ⟨d, wr, hIntent, hLe, hRight⟩
    refine ⟨d, hLe, ?_⟩
    cases i with
    | fldGet d raw =>
      cases hIntent
      exact .inl ⟨raw, rfl, hRight⟩
    | fldSet d v =>
      cases hIntent
      exact .inr (.inl ⟨v, rfl, hRight⟩)
    | fldChk d wr =>
      cases hIntent
      cases wr with
      | false => exact .inr (.inr (.inl ⟨rfl, hRight⟩))
      | true => exact .inr (.inr (.inr ⟨rfl, hRight⟩))
    | _ => cases hIntent
  · rintro ⟨d, hLe, ⟨raw, rfl, hRight⟩ | ⟨v, rfl, hRight⟩ | ⟨rfl, hRight⟩ | ⟨rfl, hRight⟩⟩
    · exact ⟨d, false, rfl, hLe, hRight⟩
    · exact ⟨d, true, rfl, hLe, hRight⟩
    · exact ⟨d, false, rfl, hLe, hRight⟩
    · exact ⟨d, true, rfl, hLe, hRight⟩

end Sys2Proof

namespace Sys2Proof.Machine

theorem exec_of_illegal {i : Instr} (h : i.Illegal) (s : State) :
    exec i s = .next { s with outs := { st := .illegalOp } } := by
  rcases h with hReserved | ⟨ri, hIndex, hAbove⟩
  · exact exec_of_isReserved hReserved s
  · exact exec_of_illegal_index hIndex hAbove s

theorem exec_of_denied {i : Instr} (h : i.Denied) (s : State) :
    exec i s = .next { s with outs := { st := .accessDenied } } := by
  obtain ⟨d, wr, hIntent, hLe, hRight⟩ := h
  obtain ⟨k, hReg⟩ := RegIndex.exists_toPort_of_le hLe
  apply exec_eq_drive
  cases i with
  | fldGet d raw =>
    cases hIntent
    exact operate_fldGet_of_not_readable hReg s.toBlock hRight raw
  | fldSet d v =>
    cases hIntent
    exact operate_fldSet_of_not_writable hReg s.toBlock hRight v
  | fldChk d wr =>
    cases hIntent
    rw [operate_fldChk_at hReg, fieldCheckOutputs]
    simp [hRight]
  | _ => cases hIntent

/-- The outputs of an operation that ran: the code `OK`, no reset requested, the ports that carry a number
in their range (R63, R158). -/
structure Outputs.Accepted (o : Outputs) : Prop where
  st : o.st = .ok
  resetReq : o.resetReq = false
  rxn : o.rxn.toNat ≤ 16
  si_ge : -16384 ≤ o.si
  si_le : o.si ≤ 16383

theorem Outputs.Accepted.of_rxn {o : Outputs} (hSt : o.st = .ok) (hReset : o.resetReq = false)
    (hSi : o.si = 0) (hRxn : o.rxn.toNat ≤ 16) : o.Accepted :=
  ⟨hSt, hReset, hRxn, by omega, by omega⟩

/-- Outputs that carry no number. -/
theorem Outputs.Accepted.of_zero {o : Outputs} (hSt : o.st = .ok) (hReset : o.resetReq = false)
    (hSi : o.si = 0) (hRxn : o.rxn = 0) : o.Accepted :=
  .of_rxn hSt hReset hSi (by simp [hRxn])

theorem Outputs.Accepted.of_si {o : Outputs} (hSt : o.st = .ok) (hReset : o.resetReq = false)
    (hRxn : o.rxn = 0) (hLow : -16384 ≤ o.si) (hHigh : o.si < 16384) : o.Accepted :=
  ⟨hSt, hReset, by simp [hRxn], hLow, Int.le_of_lt_add_one hHigh⟩

/-- A frame is at most 15 data words and the safety word (R58). -/
theorem frameWords_le (nd : BitVec 4) (safe : Bool) : (frameWords nd safe).toNat ≤ 16 := by
  rw [frameWords_toNat]
  have hData := nd.isLt
  have hSafe := safe.toNat_le
  omega

theorem rxn_le (c : CmdFields) : c.rxn.toNat ≤ 16 := by
  unfold CmdFields.rxn
  split
  · exact frameWords_le c.nd c.safe
  · split <;> decide
  · decide

/-- An index operand that is not refused is that of a register (R66(b)). -/
theorem exists_toPort_of_legal {i : Instr} {ri : BitVec 5} (h : ¬ i.Illegal)
    (hIndex : i.indexOperand = some ri) : ∃ k : RegIndex, ri = k.toPort :=
  RegIndex.exists_toPort_of_le (Nat.not_lt.mp fun hAbove => h (.inr ⟨ri, hIndex, hAbove⟩))

/-- A field operation that is neither refused nor denied has the register and the right it needs (R123). -/
theorem allowed_of_not_denied {i : Instr} {d : Descriptor} {wr : Bool} (hIllegal : ¬ i.Illegal)
    (hDenied : ¬ i.Denied) (hIndex : i.indexOperand = some d.reg)
    (hIntent : i.fieldIntent = some (d, wr)) :
    ∃ k : RegIndex, d.reg = k.toPort ∧ allowed d wr = true := by
  obtain ⟨k, hReg⟩ := exists_toPort_of_legal hIllegal hIndex
  have hLe : d.reg.toNat ≤ 21 := by
    rw [hReg, RegIndex.toPort_toNat]
    exact Nat.le_of_lt_succ k.isLt
  exact ⟨k, hReg, eq_true_of_ne_false fun hRight => hDenied ⟨d, wr, hIntent, hLe, hRight⟩⟩

/-- Every operation but `CHECK` that is neither refused nor denied answers `OK`. -/
theorem operate_accepted {i : Instr} (hIllegal : ¬ i.Illegal) (hDenied : ¬ i.Denied)
    (hCheck : ∀ w cmd pl, i ≠ .check w cmd pl) (b : Block) : (b.operate i).1.Accepted := by
  cases i with
  | check w cmd pl => exact absurd rfl (hCheck w cmd pl)
  | reserved06 | reserved07 | reserved0D | reserved0E | reserved0F | reserved16 | reserved17
  | reserved1D | reserved1E | reserved1F => exact absurd (.inl rfl) hIllegal
  | regoff ri =>
    obtain ⟨k, rfl⟩ := exists_toPort_of_legal hIllegal rfl
    rw [operate_regoff, withIndex_toPort]
    exact .of_zero rfl rfl rfl rfl
  | buildRd ri upd safe len =>
    obtain ⟨k, rfl⟩ := exists_toPort_of_legal hIllegal rfl
    rw [operate_buildRd, withIndex_toPort]
    exact .of_rxn rfl rfl rfl (frameWords_le _ _)
  | buildWr ri safe =>
    obtain ⟨k, rfl⟩ := exists_toPort_of_legal hIllegal rfl
    rw [operate_buildWr, withIndex_toPort]
    exact .of_zero rfl rfl rfl rfl
  | cacheWr ri w =>
    obtain ⟨k, rfl⟩ := exists_toPort_of_legal hIllegal rfl
    rw [operate_cacheWr_toPort]
    exact .of_zero rfl rfl rfl rfl
  | cacheRd ri =>
    obtain ⟨k, rfl⟩ := exists_toPort_of_legal hIllegal rfl
    rw [operate_cacheRd_toPort]
    exact .of_zero rfl rfl rfl rfl
  | fldGet d raw =>
    obtain ⟨k, hReg, hRight⟩ := allowed_of_not_denied hIllegal hDenied rfl rfl
    rw [operate_fldGet_of_readable hReg b hRight]
    exact .of_zero rfl rfl rfl rfl
  | fldSet d v =>
    obtain ⟨k, hReg, hRight⟩ := allowed_of_not_denied hIllegal hDenied rfl rfl
    rw [operate_fldSet_of_writable hReg b hRight]
    exact .of_zero rfl rfl rfl rfl
  | fldChk d wr =>
    obtain ⟨k, hReg, hRight⟩ := allowed_of_not_denied hIllegal hDenied rfl rfl
    rw [operate_fldChk_at hReg, fieldCheckOutputs, if_pos hRight]
    exact .of_zero rfl rfl rfl rfl
  | cnvAngle raw =>
    obtain ⟨hLow, hHigh⟩ := signed_15_bounds raw
    rw [operate_cnvAngle]
    exact .of_si rfl rfl rfl hLow hHigh
  | cnvSpeed rng raw v pred =>
    obtain ⟨hLow, hHigh⟩ := signed_15_bounds raw
    rw [operate_cnvSpeed]
    exact .of_si rfl rfl rfl hLow hHigh
  | cnvRevol raw =>
    obtain ⟨hLow, hHigh⟩ := signed_9_bounds raw
    rw [operate_cnvRevol]
    exact .of_si rfl rfl rfl (le_trans (by decide) hLow) (lt_trans hHigh (by decide))
  | cnvTemp raw =>
    obtain ⟨hLow, hHigh⟩ := signed_9_bounds raw
    rw [operate_cnvTemp]
    exact .of_si rfl rfl rfl (le_trans (by decide) hLow) (lt_trans hHigh (by decide))
  | decCmd | cmdRead | cmdWrite => exact .of_rxn rfl rfl rfl (rxn_le _)
  | nop | decSafe | crcInit | crcByte | crcWord | crcRead | blockCrc | cnvRange | safetyWord =>
    exact .of_zero rfl rfl rfl rfl

/-- All an operation can answer, by its code: it is refused, denied, a `CHECK`, or answers `OK`. -/
theorem exec_cases {i : Instr} {s t : State} (h : exec i s = .next t) :
    (i.Illegal ∧ t = { s with outs := { st := .illegalOp } }) ∨
      (i.Denied ∧ t = { s with outs := { st := .accessDenied } }) ∨
      (∃ w cmd pl, i = .check w cmd pl) ∨ t.outs.Accepted := by
  by_cases hIllegal : i.Illegal
  · cases (exec_of_illegal hIllegal s).symm.trans h
    exact .inl ⟨hIllegal, rfl⟩
  by_cases hDenied : i.Denied
  · cases (exec_of_denied hDenied s).symm.trans h
    exact .inr (.inl ⟨hDenied, rfl⟩)
  by_cases hCheck : ∃ w cmd pl, i = .check w cmd pl
  · exact .inr (.inr (.inl hCheck))
  · have hAccepted := operate_accepted hIllegal hDenied
      (fun w cmd pl e => hCheck ⟨w, cmd, pl, e⟩) s.toBlock
    rw [Block.operate_of_exec h] at hAccepted
    exact .inr (.inr (.inr hAccepted))

/-- All the codes of a `CHECK`, each with the bits or the CRC that gave it (R108). -/
theorem checkCode_cases (w cmd : Word) (pl : List Word) :
    (w[14] = false ∧ checkCode w cmd pl = .systemError) ∨
      (w[14] = true ∧ w[13] = false ∧ checkCode w cmd pl = .interfaceAccessError) ∨
      (w[14] = true ∧ w[13] = true ∧ w[12] = false ∧ checkCode w cmd pl = .invalidAngleError) ∨
      (lo8 w = crc8 (txBytes cmd pl) ∧ checkCode w cmd pl = .ok) ∨
      (w[14] = true ∧ w[13] = true ∧ w[12] = true ∧ lo8 w ≠ crc8 (txBytes cmd pl) ∧
        checkCode w cmd pl = .crcError) := by
  rcases statusBitsError_cases w with ⟨h14, h⟩ | ⟨h14, h13, h⟩ | ⟨h14, h13, h12, h⟩ |
    ⟨h14, h13, h12, -⟩
  · exact .inl ⟨h14, by rw [checkCode, h]; rfl⟩
  · exact .inr (.inl ⟨h14, h13, by rw [checkCode, h]; rfl⟩)
  · exact .inr (.inr (.inl ⟨h14, h13, h12, by rw [checkCode, h]; rfl⟩))
  · have hCode := checkCode_of_status_ones h14 h13 h12 cmd pl
    by_cases hCrc : lo8 w = crc8 (txBytes cmd pl)
    · exact .inr (.inr (.inr (.inl ⟨hCrc, hCode.trans ((crcVerdict_eq_ok_iff w cmd pl).mpr hCrc)⟩)))
    · exact .inr (.inr (.inr (.inr ⟨h14, h13, h12, hCrc, hCode.trans (crcVerdict_of_ne hCrc)⟩)))

/-- `CHECK` answers `OK` or one of the four protocol codes (R170). -/
theorem checkCode_mem (w cmd : Word) (pl : List Word) : checkCode w cmd pl ∈
    [.ok, .systemError, .interfaceAccessError, .invalidAngleError, .crcError] := by
  rcases checkCode_cases w cmd pl with ⟨-, h⟩ | ⟨-, -, h⟩ | ⟨-, -, -, h⟩ | ⟨-, h⟩ |
    ⟨-, -, -, -, h⟩ <;> simp [h]

theorem outs_of_exec_check {w cmd : Word} {pl : List Word} {s t : State}
    (h : exec (.check w cmd pl) s = .next t) :
    t.outs = { st := checkCode w cmd pl, resetReq := resetRequest (checkCode w cmd pl) } := by
  cases (exec_check w cmd pl s).symm.trans h
  rfl

theorem st_mem_of_exec_check {w cmd : Word} {pl : List Word} {s t : State}
    (h : exec (.check w cmd pl) s = .next t) :
    t.outs.st ∈ [.ok, .systemError, .interfaceAccessError, .invalidAngleError, .crcError] := by
  rw [outs_of_exec_check h]
  exact checkCode_mem w cmd pl

/-- Settles O43: the two codes are those of an invocation refused or denied before it runs. -/
theorem deniedAndIllegalInvocationsWriteNothing :
    Obligations.DeniedAndIllegalInvocationsWriteNothing := by
  intro i s t h hSt
  rcases exec_cases h with ⟨-, rfl⟩ | ⟨-, rfl⟩ | ⟨w, cmd, pl, rfl⟩ | hAccepted
  · rfl
  · rfl
  · have hMem := st_mem_of_exec_check h
    rcases hSt with hSt | hSt <;> simp [hSt] at hMem
  · simp [hAccepted.st] at hSt

theorem st_eq_illegalOp_iff {i : Instr} {s t : State} (h : exec i s = .next t) :
    t.outs.st = .illegalOp ↔ i.Illegal := by
  constructor
  · intro hSt
    rcases exec_cases h with ⟨hIllegal, -⟩ | ⟨-, rfl⟩ | ⟨w, cmd, pl, rfl⟩ | hAccepted
    · exact hIllegal
    · cases hSt
    · simpa [hSt] using st_mem_of_exec_check h
    · simp [hAccepted.st] at hSt
  · intro hIllegal
    cases (exec_of_illegal hIllegal s).symm.trans h
    rfl

theorem st_eq_accessDenied_iff {i : Instr} {s t : State} (h : exec i s = .next t) :
    t.outs.st = .accessDenied ↔ i.Denied := by
  constructor
  · intro hSt
    rcases exec_cases h with ⟨-, rfl⟩ | ⟨hDenied, -⟩ | ⟨w, cmd, pl, rfl⟩ | hAccepted
    · cases hSt
    · exact hDenied
    · simpa [hSt] using st_mem_of_exec_check h
    · simp [hAccepted.st] at hSt
  · intro hDenied
    cases (exec_of_denied hDenied s).symm.trans h
    rfl

/-- The protocol codes are those of the safety check (R185(b)). -/
theorem eq_check_of_protocol_code {i : Instr} {s t : State} (h : exec i s = .next t)
    (hSt : t.outs.st ∈ [.systemError, .interfaceAccessError, .invalidAngleError, .crcError]) :
    ∃ w cmd pl, i = .check w cmd pl := by
  rcases exec_cases h with ⟨-, rfl⟩ | ⟨-, rfl⟩ | hCheck | hAccepted
  · simp at hSt
  · simp at hSt
  · exact hCheck
  · simp [hAccepted.st] at hSt

/-- No operation of the block raises the code of a failed Transport call (R175). -/
theorem st_ne_transportError {i : Instr} {s t : State} (h : exec i s = .next t) :
    t.outs.st ≠ .transportError := by
  intro hSt
  rcases exec_cases h with ⟨-, rfl⟩ | ⟨-, rfl⟩ | ⟨w, cmd, pl, rfl⟩ | hAccepted
  · cases hSt
  · cases hSt
  · simpa [hSt] using st_mem_of_exec_check h
  · simp [hAccepted.st] at hSt

/-- Settles O44: each code is that of one of the four ways an operation can end. -/
theorem eachCodeComesFromItsOperations : Obligations.EachCodeComesFromItsOperations := by
  intro i s t h
  exact ⟨st_eq_illegalOp_iff h, (st_eq_accessDenied_iff h).trans i.denied_iff,
    eq_check_of_protocol_code h, st_ne_transportError h⟩

/-! ### What every step leaves in the outputs (spec/60_exceptions.md R170) -/

theorem Outputs.Accepted.shaped {o : Outputs} (h : o.Accepted) : o.Shaped := by
  refine ⟨fun hSt => absurd h.st hSt, ?_, ?_, h.rxn, h.si_ge, h.si_le⟩
  · simp [h.resetReq, h.st]
  · simp [h.st]

/-- A code alone on the outputs, with the reset request that goes with it (R109, R170). -/
theorem Outputs.shaped_of_code {c : ResultCode} (h : c ≠ .transportError) :
    ({ st := c, resetReq := resetRequest c } : Outputs).Shaped := by
  cases c with
  | transportError => exact absurd rfl h
  | _ => decide

/-- `CHECK` records the safety word, and the accumulator where it was the CRC that failed (R170). -/
theorem recorded_of_exec_check {w cmd : Word} {pl : List Word} {s t : State}
    (h : exec (.check w cmd pl) s = .next t) : t.Recorded := by
  cases (exec_check w cmd pl s).symm.trans h
  rcases checkCode_cases w cmd pl with ⟨h14, hCode⟩ | ⟨h14, h13, hCode⟩ | ⟨h14, h13, h12, hCode⟩ |
    ⟨-, hCode⟩ | ⟨h14, h13, h12, hCrc, hCode⟩
  · simp [State.Recorded, hCode, h14]
  · simp [State.Recorded, hCode, h14, h13]
  · simp [State.Recorded, hCode, h14, h13, h12]
  · exact State.recorded_of_ok hCode
  · have hStatus := (statusBitsError_eq_none_iff w).mpr ⟨h14, h13, h12⟩
    simpa [State.Recorded, hCode, h14, h13, h12, hStatus, crc8] using hCrc

theorem shaped_and_recorded_of_exec {i : Instr} {s t : State} (h : exec i s = .next t) :
    t.outs.Shaped ∧ t.Recorded := by
  rcases exec_cases h with ⟨-, rfl⟩ | ⟨-, rfl⟩ | ⟨w, cmd, pl, rfl⟩ | hAccepted
  · exact ⟨Outputs.shaped_of_code (c := .illegalOp) (by simp), by simp [State.Recorded]⟩
  · exact ⟨Outputs.shaped_of_code (c := .accessDenied) (by simp), by simp [State.Recorded]⟩
  · refine ⟨?_, recorded_of_exec_check h⟩
    have hCode := st_ne_transportError h
    rw [outs_of_exec_check h] at hCode ⊢
    exact Outputs.shaped_of_code hCode
  · exact ⟨hAccepted.shaped, State.recorded_of_ok hAccepted.st⟩

/-- Settles O3: a step that answers a next state ran one operation, which leaves the invariant whatever
state it began in. -/
theorem everyStepLeavesShapedRecordedOutputs : Obligations.EveryStepLeavesShapedRecordedOutputs := by
  intro s t _ hStep
  obtain ⟨i, -, hExec⟩ := exec_of_step hStep
  exact shaped_and_recorded_of_exec hExec

end Sys2Proof.Machine

/-! ### The lifecycle of the host object (spec/60_exceptions.md R181 to R184) -/

namespace Sys2Proof.Machine

theorem Facade.usable_iff (f : Facade) : f.usable = true ↔ f.life = .ready ∨ f.life = .faulted := by
  simp [Facade.usable]

theorem Facade.whenUsable_of_unusable {α : Type} {f : Facade} (h : f.usable = false)
    (k : Facade → HostOutcome α) : f.whenUsable k = .notAllowed := by
  simp [Facade.whenUsable, h]

theorem getAngleValue_of_unusable (p : HostParams) {f : Facade} (h : f.usable = false) :
    getAngleValue p f = .notAllowed := by
  have hRead : readInput p (.register RegIndex.aval false) f = .notAllowed :=
    Facade.whenUsable_of_unusable h _
  rw [getAngleValue, valueGetter, hRead, HostOutcome.andThen_notAllowed]

theorem beginSession_of_ne (p : HostParams) {f : Facade} (h : f.life ≠ .uninitialized) :
    beginSession p f = .notAllowed :=
  if_pos h

theorem endSession_of_success {f : Facade} {rx : List Word} {rest : List Answer}
    (hUsable : f.usable = true) (hAnswers : f.answers = .success rx :: rest) :
    endSession f = .done .ok ()
      { f with answers := rest, wire := f.wire ++ [.deinit true], life := .ended } := by
  rw [endSession, Facade.whenUsable_of_usable hUsable]
  simp [Facade.transport, hAnswers]

/-- Settles O57: every sequence begins with the test of the lifecycle; `end` is one call and a change of the
lifecycle. -/
theorem lifecycleGuardsTheSequences : Obligations.LifecycleGuardsTheSequences := by
  refine ⟨fun p d v ri upd f hLife => ?_, fun p f h => beginSession_of_ne p h,
    fun f rx rest hUsable hAnswers => ⟨_, endSession_of_success hUsable hAnswers, rfl, rfl⟩⟩
  have hUnusable : f.usable = false := by
    rcases hLife with h | h <;> simp [Facade.usable, h]
  have hRefused {α : Type} (k : Facade → HostOutcome α) : f.whenUsable k = .notAllowed :=
    Facade.whenUsable_of_unusable hUnusable k
  exact ⟨hRefused _, hRefused _, hRefused _, hRefused _, hRefused _, hRefused _, hRefused _,
    getAngleValue_of_unusable p hUnusable, hRefused _, hRefused _⟩

/-! ### `reset_safety` (spec/60_exceptions.md R177, R178, R183) -/

theorem Facade.trigger_of_failure {f : Facade} {rest : List Answer}
    (h : f.answers = .failure :: rest) :
    f.trigger = .done .transportError []
      { f with answers := rest, wire := f.wire ++ [.trigger false] } := by
  simp [Facade.trigger, Facade.transport, h]

theorem Facade.exchange_of_failure {f : Facade} {rest : List Answer}
    (h : f.answers = .failure :: rest) (tx : List Word) (n : Nat) :
    f.exchange tx n = .done .transportError []
      { f with answers := rest, wire := f.wire ++ [.exchange tx none] } := by
  rw [Facade.exchange, Facade.transport, h]
  exact HostOutcome.andThen_error (by simp) _ _ _ _

/-- An exchange that succeeds delivers a frame of the length asked for, whatever was answered (R58). -/
theorem Facade.exchange_of_answer {f : Facade} {rx : List Word} {rest : List Answer}
    (h : f.answers = .success rx :: rest) (tx : List Word) (n : Nat) :
    f.exchange tx n = .done .ok (receiveFrame n rx)
      { f with answers := rest, wire := f.wire ++ [.exchange tx (some (receiveFrame n rx))] } := by
  rw [Facade.exchange, Facade.transport, h]
  rfl

/-- The words of the dummy read, which nothing looks at (R177). -/
def dummyFrame (p : HostParams) (rx : List Word) : List Word :=
  receiveFrame (commandFields p.resetSafetyCmd).rxn.toNat rx

section ResetSafety

variable (p : HostParams) {f : Facade} {a rx : List Word} {rest : List Answer}

theorem resetSafetySteps_of_success (h : f.answers = .success a :: .success rx :: rest) :
    resetSafetySteps p f = .done .ok () { f with
      life := .ready
      answers := rest
      wire := f.wire ++ [.trigger true, .exchange [p.resetSafetyCmd] (some (dummyFrame p rx))] } := by
  rw [resetSafetySteps, Facade.trigger_of_success h, HostOutcome.andThen_ok,
    Facade.exchange_of_answer rfl, HostOutcome.andThen_ok]
  simp [dummyFrame]

theorem resetSafetySteps_of_trigger_failure (h : f.answers = .failure :: rest) :
    resetSafetySteps p f = .done .transportError ()
      { f with answers := rest, wire := f.wire ++ [.trigger false] } := by
  rw [resetSafetySteps, Facade.trigger_of_failure h, HostOutcome.andThen_error (by simp)]

theorem resetSafetySteps_of_exchange_failure (h : f.answers = .success a :: .failure :: rest) :
    resetSafetySteps p f = .done .transportError () { f with
      answers := rest
      wire := f.wire ++ [.trigger true, .exchange [p.resetSafetyCmd] none] } := by
  rw [resetSafetySteps, Facade.trigger_of_success h, HostOutcome.andThen_ok,
    Facade.exchange_of_failure rfl, HostOutcome.andThen_error (by simp)]
  simp

/-- With fewer answers than it needs, `reset_safety` does not return (assumption log 14). -/
theorem resetSafetySteps_of_short (h : f.answers = [] ∨ f.answers = [.success a]) :
    ∃ g, resetSafetySteps p f = .blocked g := by
  rcases h with h | h
  · exact ⟨f, by simp [resetSafetySteps, Facade.trigger, Facade.transport, h]⟩
  · rw [resetSafetySteps, Facade.trigger_of_success h, HostOutcome.andThen_ok]
    exact ⟨_, rfl⟩

/-- All that decides how `reset_safety` ends: its first two answers. -/
theorem resetAnswers_cases (answers : List Answer) :
    (∃ a, answers = [] ∨ answers = [.success a]) ∨ (∃ rest, answers = .failure :: rest) ∨
      (∃ a rest, answers = .success a :: .failure :: rest) ∨
      ∃ a rx rest, answers = .success a :: .success rx :: rest := by
  match answers with
  | [] => exact .inl ⟨[], .inl rfl⟩
  | [.success a] => exact .inl ⟨a, .inr rfl⟩
  | .failure :: rest => exact .inr (.inl ⟨rest, rfl⟩)
  | .success a :: .failure :: rest => exact .inr (.inr (.inl ⟨a, rest, rfl⟩))
  | .success a :: .success rx :: rest => exact .inr (.inr (.inr ⟨a, rx, rest, rfl⟩))

theorem resetSafetySteps_eq_done {g : Facade} {st : ResultCode}
    (h : resetSafetySteps p f = .done st () g) :
    g.block = f.block ∧ (st = .ok ∨ st = .transportError ∧ g.life = f.life) := by
  rcases resetAnswers_cases f.answers with ⟨a, hAns⟩ | ⟨rest, hAns⟩ | ⟨a, rest, hAns⟩ |
    ⟨a, rx, rest, hAns⟩
  · obtain ⟨_, hBlocked⟩ := resetSafetySteps_of_short p hAns
    cases hBlocked.symm.trans h
  · cases (resetSafetySteps_of_trigger_failure p hAns).symm.trans h
    exact ⟨rfl, .inr ⟨rfl, rfl⟩⟩
  · cases (resetSafetySteps_of_exchange_failure p hAns).symm.trans h
    exact ⟨rfl, .inr ⟨rfl, rfl⟩⟩
  · cases (resetSafetySteps_of_success p hAns).symm.trans h
    exact ⟨rfl, .inl rfl⟩

end ResetSafety

/-- Settles O51: the first two answers decide how the two calls end. -/
theorem resetSafetyTouchesNoBlockState : Obligations.ResetSafetyTouchesNoBlockState := by
  have hSteps (p : HostParams) {f : Facade} (hUsable : f.usable = true) :
      resetSafety p f = resetSafetySteps p f :=
    Facade.whenUsable_of_usable hUsable _
  refine ⟨fun p f a rx rest hUsable hAns => ⟨_, _,
      (hSteps p hUsable).trans (resetSafetySteps_of_success p hAns), rfl, rfl, rfl⟩,
    fun p f rest hUsable hAns => ⟨_,
      (hSteps p hUsable).trans (resetSafetySteps_of_trigger_failure p hAns), rfl, rfl, rfl, rfl⟩,
    fun p f a rest hUsable hAns => ⟨_,
      (hSteps p hUsable).trans (resetSafetySteps_of_exchange_failure p hAns), rfl, rfl, rfl, rfl⟩,
    fun p f g st h => resetSafetySteps_eq_done p ((hSteps p (usable_of_whenUsable h)).symm.trans h)⟩

/-! ### A register read in `Ready` and in `Faulted` (spec/42_register_bitfield.md R132) -/

section RegisterRead

variable (p : HostParams) (i : RegIndex) (upd : Bool) {f : Facade}

theorem payReset_of_faulted (h : f.life = .faulted) : payReset p true f = resetSafetySteps p f := by
  simp [payReset, h]

/-- A checked read whose exchange fails builds its command word and makes that one call (R175). -/
theorem safeRead_of_failure {rest : List Answer} (h : f.answers = .failure :: rest) :
    safeRead i.toPort upd f = .done .transportError 0 { f with
      answers := rest
      wire := f.wire ++ [.exchange [readCommand i upd true 1] none] } := by
  rw [safeRead, Facade.call_of_drive (operate_buildRd_one i upd f.block), if_neg (by simp),
    Facade.exchange_of_failure h, HostOutcome.andThen_error (by simp)]

/-- The steps of `read_register` once no reset is due (R132). -/
theorem readRegisterSteps_of_paid {g : Facade} (h : payReset p true f = .done .ok () g) :
    readRegisterSteps p i upd f = (safeRead i.toPort upd g).andThen 0 fun x f =>
      .done .ok x (f.invoke (.cacheWr i.toPort x)) := by
  rw [readRegisterSteps, h, HostOutcome.andThen_ok]

theorem readRegisterSteps_of_paid_of_failure {g : Facade} {rest : List Answer}
    (h : payReset p true f = .done .ok () g) (hAns : g.answers = .failure :: rest) :
    readRegisterSteps p i upd f = .done .transportError 0 { g with
      answers := rest
      wire := g.wire ++ [.exchange [readCommand i upd true 1] none] } := by
  rw [readRegisterSteps_of_paid p i upd h, safeRead_of_failure i upd hAns,
    HostOutcome.andThen_error (by simp)]

/-- A reset that fails ends the read (assumption log 15). -/
theorem readRegisterSteps_of_reset_failure {g : Facade} (hLife : f.life = .faulted)
    (h : resetSafetySteps p f = .done .transportError () g) :
    readRegisterSteps p i upd f = .done .transportError 0 g := by
  rw [readRegisterSteps, payReset_of_faulted p hLife, h, HostOutcome.andThen_error (by simp)]

theorem readRegister_of_usable (h : f.usable = true) :
    readRegister p i upd f = readRegisterSteps p i upd f :=
  Facade.whenUsable_of_usable h _

theorem Facade.usable_of_faulted (h : f.life = .faulted) : f.usable = true :=
  f.usable_iff.mpr (.inr h)

/-- The first call of a read fails: the trigger of the reset where one is due, else the exchange. -/
theorem readRegister_of_first_failure {rest : List Answer} (hUsable : f.usable = true)
    (hAns : f.answers = .failure :: rest) :
    ∃ call, readRegister p i upd f =
      .done .transportError 0 { f with answers := rest, wire := f.wire ++ [call] } := by
  rw [readRegister_of_usable p i upd hUsable]
  rcases f.usable_iff.mp hUsable with hReady | hFaulted
  · exact ⟨_, readRegisterSteps_of_paid_of_failure p i upd (payReset_of_ready p true hReady) hAns⟩
  · exact ⟨_, readRegisterSteps_of_reset_failure p i upd hFaulted
      (resetSafetySteps_of_trigger_failure p hAns)⟩

end RegisterRead

/-- Settles O55: the call that fails is the last; none before it has written the block. -/
theorem transportFailureEndsTheRead : Obligations.TransportFailureEndsTheRead := by
  refine ⟨fun p ri upd f rest hUsable hAns => ?_, fun p ri upd f a b rest hFaulted =>
    ⟨fun hAns => ?_, fun hAns => ?_⟩⟩
  · obtain ⟨call, hRead⟩ := readRegister_of_first_failure p ri upd hUsable hAns
    exact ⟨_, call, hRead, rfl, rfl, rfl, rfl, rfl, rfl⟩
  · rw [readRegister_of_usable p ri upd (Facade.usable_of_faulted hFaulted)]
    exact ⟨_, readRegisterSteps_of_reset_failure p ri upd hFaulted
      (resetSafetySteps_of_exchange_failure p hAns), rfl, hFaulted, rfl, rfl⟩
  · rw [readRegister_of_usable p ri upd (Facade.usable_of_faulted hFaulted)]
    have hPaid := (payReset_of_faulted p hFaulted).trans (resetSafetySteps_of_success p hAns)
    exact ⟨_, dummyFrame p b, _, readRegisterSteps_of_paid_of_failure p ri upd hPaid rfl, rfl, rfl, rfl,
      readCommand_one_toNat ri upd, by simp⟩

/-- A checked read that returns has made one exchange, whatever its code (R130). -/
theorem safeRead_wire {i : RegIndex} {upd : Bool} {f g : Facade} {st : ResultCode} {x : Word}
    (h : safeRead i.toPort upd f = .done st x g) : ∃ call, g.wire = f.wire ++ [call] := by
  rw [safeRead, Facade.call_of_drive (operate_buildRd_one i upd f.block), if_neg (by simp)] at h
  cases hAns : f.answers with
  | nil => simp [Facade.exchange, Facade.transport, hAns] at h
  | cons answer rest =>
    cases answer with
    | failure =>
      rw [Facade.exchange_of_failure hAns, HostOutcome.andThen_error (by simp)] at h
      cases h
      exact ⟨_, rfl⟩
    | success rx =>
      rw [Facade.exchange_of_answer hAns, HostOutcome.andThen_ok, Facade.check_eq] at h
      split at h <;> cases h <;> exact ⟨_, rfl⟩

/-- Caching the word read makes no call: a read that owes no reset has made one exchange, the one of R132
where it returned `OK`. -/
theorem readRegisterSteps_of_paid_wire {p : HostParams} {i : RegIndex} {upd : Bool} {f f₁ g : Facade}
    {st : ResultCode} {x : Word} (hPaid : payReset p true f = .done .ok () f₁)
    (h : readRegisterSteps p i upd f = .done st x g) :
    ∃ call, g.wire = f₁.wire ++ [call] ∧ (st = .ok → ∃ w, call = singleRead i upd x w) := by
  rw [readRegisterSteps_of_paid p i upd hPaid] at h
  rcases HostOutcome.andThen_eq_done h with ⟨y, f₂, hRead, hCached⟩ | ⟨y, hError, hRead, -⟩
  · cases hCached
    obtain ⟨w, hWire⟩ := safeRead_eq_ok hRead
    exact ⟨_, hWire, fun _ => ⟨w, rfl⟩⟩
  · obtain ⟨call, hWire⟩ := safeRead_wire hRead
    exact ⟨call, hWire, fun hOk => absurd hOk hError⟩

/-- Settles O52: the reset's own two calls come first, and only where both succeed the read follows. -/
theorem faultedHostResetsBeforeItsRead : Obligations.FaultedHostResetsBeforeItsRead := by
  intro p ri upd f g st x hFaulted h
  rw [readRegister_of_usable p ri upd (Facade.usable_of_faulted hFaulted)] at h
  rcases resetAnswers_cases f.answers with ⟨a, hAns⟩ | ⟨rest, hAns⟩ | ⟨a, rest, hAns⟩ |
    ⟨a, rx, rest, hAns⟩
  · obtain ⟨_, hBlocked⟩ := resetSafetySteps_of_short p hAns
    rw [readRegisterSteps, payReset_of_faulted p hFaulted, hBlocked] at h
    cases h
  · cases (readRegisterSteps_of_reset_failure p ri upd hFaulted
      (resetSafetySteps_of_trigger_failure p hAns)).symm.trans h
    exact ⟨false, [], rfl, nofun⟩
  · cases (readRegisterSteps_of_reset_failure p ri upd hFaulted
      (resetSafetySteps_of_exchange_failure p hAns)).symm.trans h
    exact ⟨true, _, rfl, nofun⟩
  · have hPaid := (payReset_of_faulted p hFaulted).trans (resetSafetySteps_of_success p hAns)
    obtain ⟨call, hWire, hRead⟩ := readRegisterSteps_of_paid_wire hPaid h
    refine ⟨true, [.exchange [p.resetSafetyCmd] (some (dummyFrame p rx)), call], by simp [hWire],
      fun hOk => ⟨rfl, dummyFrame p rx, ?_⟩⟩
    obtain ⟨w, rfl⟩ := hRead hOk
    exact ⟨_, w, readCommand_one_toNat ri upd, rfl⟩

end Sys2Proof.Machine

/-! ### The latch of the status bits (spec/60_exceptions.md R176) -/

namespace Sys2Proof.Machine

/-- A word has a mask whole when it has each of its bits. -/
theorem and_eq_mask_iff {n : Nat} {x m : BitVec n} :
    x &&& m = m ↔ ∀ k, m.getLsbD k = true → x.getLsbD k = true := by
  constructor
  · intro h k hk
    rw [← h, BitVec.getLsbD_and, Bool.and_eq_true] at hk
    exact hk.1
  · intro h
    refine BitVec.eq_of_getLsbD_eq fun k _ => ?_
    rw [BitVec.getLsbD_and, Bool.and_eq_right_iff_imp]
    exact h k

/-- A `CHECK` that reaches its CRC had all three status bits 1 (R108). -/
theorem status_ones_of_none {w : Word} (h : statusBitsError w = none) : w &&& 0x7000 = 0x7000 := by
  obtain ⟨h14, h13, h12⟩ := (statusBitsError_eq_none_iff w).mp h
  ext k hk
  interval_cases k <;> simp [h14, h13, h12]

/-- The bits latched low after a call that re-reads nothing. -/
def latchedAfter (call : WireCall) (latched : Word) : Word :=
  match call.safetyWord? with
  | some w => latched ||| (~~~ w &&& 0x7000)
  | none => latched

section Latch

variable {call : WireCall} {rest : List WireCall} {latched w : Word} {k : Nat}

/-- A safety word has no bit that is latched low. -/
theorem and_eq_zero_of_latchHolds (h : latchHolds (call :: rest) latched = true)
    (hw : call.safetyWord? = some w) : w &&& latched = 0 := by
  simp only [latchHolds, hw, Bool.and_eq_true, decide_eq_true_eq] at h
  exact h.1

theorem latchHolds_latchedAfter (h : latchHolds (call :: rest) latched = true)
    (hKept : call.mayRereadStatus = false) : latchHolds rest (latchedAfter call latched) = true := by
  unfold latchedAfter
  cases hw : call.safetyWord? with
  | none => simpa [latchHolds, hw, hKept] using h
  | some w =>
    simp only [latchHolds, hw, hKept, Bool.and_eq_true] at h
    exact h.2

theorem latchedAfter_of_latched (h : latched.getLsbD k = true) :
    (latchedAfter call latched).getLsbD k = true := by
  unfold latchedAfter
  split
  · simp [h]
  · exact h

theorem latchedAfter_of_low (hw : call.safetyWord? = some w)
    (hMask : (0x7000 : Word).getLsbD k = true) (hLow : w.getLsbD k = false) :
    (latchedAfter call latched).getLsbD k = true := by
  have hk : k < 16 := BitVec.lt_of_getLsbD hMask
  simp only [latchedAfter, hw, BitVec.getLsbD_or, BitVec.getLsbD_and, BitVec.getLsbD_not, hMask, hLow,
    hk]
  simp

/-- A bit stays latched over any calls that re-read nothing (R176). -/
theorem latchHolds_through {mid : List WireCall} (hMid : ∀ e ∈ mid, e.mayRereadStatus = false)
    (h : latchHolds (mid ++ rest) latched = true) (hBit : latched.getLsbD k = true) :
    ∃ latched', latchHolds rest latched' = true ∧ latched'.getLsbD k = true := by
  induction mid generalizing latched with
  | nil => exact ⟨latched, h, hBit⟩
  | cons e mid ih =>
    rw [List.forall_mem_cons] at hMid
    obtain ⟨hKept, hMid⟩ := hMid
    exact ih hMid (latchHolds_latchedAfter h hKept) (latchedAfter_of_latched hBit)

end Latch

/-- A safety word with a status bit low fails its `CHECK` on the status bits (R108). -/
theorem checkCode_of_status_low {w : Word} (h : w &&& 0x7000 ≠ 0x7000) (cmd : Word) (pl : List Word) :
    checkCode w cmd pl ∈ [.systemError, .interfaceAccessError, .invalidAngleError] := by
  rcases statusBitsError_cases w with ⟨-, hCode⟩ | ⟨-, -, hCode⟩ | ⟨-, -, -, hCode⟩ | ⟨-, -, -, hNone⟩
  · simp [checkCode, hCode]
  · simp [checkCode, hCode]
  · simp [checkCode, hCode]
  · exact absurd (status_ones_of_none hNone) h

/-- Settles O58: a status bit low in the first safety word is latched, so it is low in the later one. -/
theorem stickyErrorsFailLaterChecks : Obligations.StickyErrorsFailLaterChecks := by
  intro c d mid tail latched w w' cmd pl s hLatch hKept hw hLow hw'
  rw [List.forall_mem_cons] at hKept
  obtain ⟨hFirst, hMid⟩ := hKept
  obtain ⟨k, hMask, hBit⟩ : ∃ k, (0x7000 : Word).getLsbD k = true ∧ ¬ w.getLsbD k = true := by
    simpa [and_eq_mask_iff] using hLow
  have hLatched := latchedAfter_of_low (latched := latched) hw hMask (eq_false_of_ne_true hBit)
  obtain ⟨latched', hRest, hBit'⟩ :=
    latchHolds_through hMid (latchHolds_latchedAfter hLatch hFirst) hLatched
  have hDisjoint := and_eq_zero_of_latchHolds hRest hw'
  have hLow' : w' &&& 0x7000 ≠ 0x7000 := by
    intro hOnes
    have hSet := and_eq_mask_iff.mp hOnes k hMask
    have hBoth := congrArg (·.getLsbD k) hDisjoint
    simp [hSet, hBit'] at hBoth
  exact ⟨_, exec_check w' cmd pl s, checkCode_of_status_low hLow' cmd pl⟩

end Sys2Proof.Machine
